-- ==== Sys2Proof/Word.lean ====
section
/-! DEFINITION. The widths every rule uses: an 8-bit byte of the receive stream (00_scope.md R7) and the 32-bit command or response word (30_encoding.md R100, R107). -/

namespace Sys2Proof

/-- A byte: 8 bits, bit 7 most significant (00_scope.md R7). -/
abbrev Byte := BitVec 8

/-- A command or response word: 32 bits presented in parallel (30_encoding.md R100, R107). -/
abbrev Word := BitVec 32

end Sys2Proof
end

