-- ==== Sys2Proof/Config.lean ====
section
/-! DEFINITION. What one construction of the block fixes: the open parameter `P_MIDI_CHANNEL` (00_scope.md R5) and the numeric constants (00_scope.md R6). -/

namespace Sys2Proof.Config

/-- `P_MIDI_CHANNEL` (00_scope.md R5, decision D10): any integer. It has no body, so no proof can see a value of it. (log 4) -/
opaque pMidiChannel : Int

/-- `CH_MAX`, the largest accepted channel (00_scope.md R6). -/
def chMax : Nat := 127

/-- `UNITY`, the unity gain and the clip value (00_scope.md R6, 90_conflicts.md C1). -/
def unity : Nat := 1024

/-- `GAIN_SHIFT` (00_scope.md R6). -/
def gainShift : Nat := 10

/-- `DEAD_ZONE` (00_scope.md R6). -/
def deadZone : Nat := 5

/-- `BV_INIT_CAP`, the capacity of the static-scene store at reset (00_scope.md R6). -/
def bvInitCap : Nat := 16

/-- `BV_MAX`, the hard ceiling of the static-scene store (00_scope.md R6). -/
def bvMax : Nat := 128

/-- `CC_STATUS_BASE` (00_scope.md R6). -/
def ccStatusBase : Byte := 0xB0#8

end Sys2Proof.Config
end

