-- ==== Sys2Proof/Machine/Sync.lean ====
section
/-! DEFINITION. The sync filter the block computes at reset (42_frame_parser.md R190). -/

namespace Sys2Proof.Machine

/-- `clamp(c, lo, hi) = min(max(c, lo), hi)` on integers (00_scope.md R8). -/
def clamp (c lo hi : Int) : Int := min (max c lo) hi

/-- `0xB0 | ((clamp(P_MIDI_CHANNEL, 1, 16) - 1) & 0x0F)` (42_frame_parser.md R190). -/
def syncFilter (channel : Int) : Byte :=
  Config.ccStatusBase ||| (BitVec.ofNat 8 (clamp channel 1 16 - 1).toNat &&& 0x0F#8)

end Sys2Proof.Machine
end

