-- ==== Sys2Proof/Syntax.lean ====
section
/-! DEFINITION. The instructions (one constructor per row of the opcode table), the HOST's and SRC's actions on the block's ports, and the spec's assembler lines. -/

namespace Sys2Proof

/-- One constructor per row of opcode_table.json. Operands are the raw fields of 30_encoding.md R101, R103:
`S` and `D` are one bit, `A`, `B`, `C`, `I` eight, `G` sixteen, `X` seven. -/
inductive Instr where
  /-- READ_CC (42_frame_parser.md R192). -/
  | readCc
  /-- TO_DMX: controller `a`, value `b` (41_dmx_slot.md R172). -/
  | toDmx (a b : BitVec 8)
  /-- SET_VALUE: slot fields `S`, `C`, `I` (43_scene_engine.md R223). -/
  | setValue (s : Bool) (c i : BitVec 8)
  /-- SET_GAIN (43_scene_engine.md R224). -/
  | setGain (g : BitVec 16)
  /-- STATIC_APPEND: channel `a`, colour `b` (43_scene_engine.md R226). -/
  | staticAppend (a b : BitVec 8)
  /-- SWITCH_SCENE: `D`, true for the dynamic scene (43_scene_engine.md R227). -/
  | switchScene (d : Bool)
  /-- GET_GAIN (44_query.md R260). -/
  | getGain
  /-- GET_SCENE (44_query.md R261). -/
  | getScene
  /-- GET_FILTER (44_query.md R262). -/
  | getFilter
  /-- GET_STATUS (44_query.md R263). -/
  | getStatus
  /-- GET_DYN: index `X` (44_query.md R264). -/
  | getDyn (x : BitVec 7)
  /-- BV_PUSH: slot fields `S`, `C`, `I` (40_bounded_vector.md R142). -/
  | bvPush (s : Bool) (c i : BitVec 8)
  /-- BV_POP (40_bounded_vector.md R143). -/
  | bvPop
  /-- BV_SIZE (40_bounded_vector.md R144). -/
  | bvSize
  /-- BV_CAPACITY (40_bounded_vector.md R145). -/
  | bvCapacity
  /-- BV_MAX_SIZE (40_bounded_vector.md R146). -/
  | bvMaxSize
  /-- BV_EMPTY (40_bounded_vector.md R147). -/
  | bvEmpty
  /-- BV_READ: index `X` (40_bounded_vector.md R148). -/
  | bvRead (x : BitVec 7)
  /-- MIDI_CC_FRAME (30_encoding.md R108): the 24-bit receive-stream frame of MIDI channel `n` + 1 with controller `c`
  and value `v`. It is not a command. (log 3) -/
  | midiCcFrame (n : BitVec 4) (c v : BitVec 7)
deriving DecidableEq, Repr

/-- One action of an agent on the block (00_scope.md R4): what the next machine step answers to. (log 1, log 2, log 6) -/
inductive PortAction where
  /-- The HOST presents a command word on the command port (30_encoding.md R100). -/
  | command (w : Word)
  /-- SRC appends bytes, oldest first, to the receive stream (20_memory.md R78). -/
  | arrive (bytes : List Byte)
  /-- The HOST resets the block, providing `P_MIDI_CHANNEL` (70_reset_and_hazards.md R310, R311, R314). -/
  | reset (channel : Int)
deriving DecidableEq, Repr

/-- One line of the spec's assembler syntax (30_encoding.md R109) and the pseudo-instruction SET_STATIC_SCENE (R111),
with operands as the numbers written in the line. -/
inductive AsmLine where
  | readCc
  | toDmx (a b : Nat)
  | setValue (c i : Nat)
  | setValueUnset
  | setGain (g : Nat)
  | staticAppend (c k : Nat)
  | switchSceneStatic
  | switchSceneDynamic
  | getGain
  | getScene
  | getFilter
  | getStatus
  | getDyn (x : Nat)
  | bvPush (c i : Nat)
  | bvPushUnset
  | bvPop
  | bvSize
  | bvCapacity
  | bvMaxSize
  | bvEmpty
  | bvRead (x : Nat)
  /-- `.word w`: any 32-bit value, legal or not. -/
  | word (w : Nat)
  /-- `SET_STATIC_SCENE` with the channel lists and colours of red, green and blue (R111). -/
  | setStaticScene (reds greens blues : List Nat) (red green blue : Nat)
deriving DecidableEq, Repr

end Sys2Proof
end

