-- ==== Sys2Proof/Machine/State.lean ====
section
/-! DEFINITION. The architectural state of 10_state.md R30 with its two ports, the timeline of the outside agents, the reasons a step can stop, and reset. -/

namespace Sys2Proof.Machine

/-- A DmxSlot: `(set: 1 bit, ch: 8 bits, in: 8 bits)` (10_state.md R45). -/
structure Slot where
  /-- `set`: the slot holds a value. -/
  set : Bool
  /-- `ch`: the channel, 0..255. -/
  ch : BitVec 8
  /-- `in`: the intensity, 0..255. -/
  intensity : BitVec 8
deriving DecidableEq, Repr

/-- `DEFAULT = (0, 0, 0)`, the unset slot (10_state.md R45). -/
def Slot.default : Slot := ⟨false, 0, 0⟩

/-- An output event `(ch, in)` (10_state.md R44). -/
structure Event where
  /-- The channel, 0..255. -/
  ch : BitVec 8
  /-- The intensity, 0..255. -/
  intensity : BitVec 8
deriving DecidableEq, Repr

/-- `PSTATE`, the frame parser's micro-state (10_state.md R42). -/
inductive ParserState where
  /-- Between commands. -/
  | idle
  /-- Looking for the sync byte. -/
  | scan
  /-- Sync consumed, testing for two data bytes. -/
  | avail
  /-- Reading the two data bytes. -/
  | harvest
deriving DecidableEq, Repr

/-- The codes of the block's two recorded faults (60_exceptions.md R281). They stop nothing: see `State.raiseFault`. -/
inductive FaultCode where
  /-- Code 1: a command word matches no row of the opcode table. -/
  | illegal
  /-- Code 2: BV_READ at or beyond SS_SIZE. -/
  | bvIndex
deriving DecidableEq, Repr

/-- Why a step stops with a fault. The block itself never stops: its own two faults are recorded in STATUS and the
command completes (60_exceptions.md R284). -/
inductive Fault where
  /-- READ_CC's scan did not end (42_frame_parser.md R198: it need not, under endless arrivals). Raised by `runParser`
  when it runs out of micro-steps. Safe. A timeline holds finitely many bytes, so no step raises it. (log 8) -/
  | scanUnending
deriving DecidableEq, Repr

/-- Why a step is refused. -/
inductive Refusal where
  /-- An instruction without a meaning; no arm of `exec` answers so. Safe. -/
  | notModelled (mnemonic : String)
  /-- RxPop on an empty receive stream: the byte source's "sentinel if none", whose value no source gives and which
  93_implementation_defined.md treats as `refuse`. Raised by `parserStep`. Safe. A pop only follows a count that
  showed the byte (42_frame_parser.md R191), so no step raises it. (log 7) -/
  | rxSentinel
deriving DecidableEq, Repr

/-- The machine's state: 10_state.md R30, with RX, OUT and the outside agents' timeline. -/
structure State where
  /-- `FILTER` (10_state.md R31). -/
  filter : BitVec 8
  /-- `ACTIVE_DYN` (10_state.md R32). -/
  activeDyn : Bool
  /-- `GAIN` (10_state.md R33). -/
  gain : BitVec 11
  /-- `STATUS` (10_state.md R40). -/
  status : BitVec 32
  /-- `RESP` (10_state.md R41). -/
  resp : BitVec 32
  /-- `DYN[0..127]` (10_state.md R34). -/
  dyn : Vector Slot 128
  /-- `SS_DATA[0..127]` (10_state.md R36). -/
  ssData : Vector Slot 128
  /-- `SS_SIZE` (10_state.md R37). -/
  ssSize : BitVec 8
  /-- `SS_CAP` (10_state.md R38). -/
  ssCap : BitVec 8
  /-- `PSTATE` (10_state.md R42). -/
  pstate : ParserState
  /-- `RX`, oldest byte first (10_state.md R43). -/
  rx : List Byte
  /-- `OUT`, oldest event first (10_state.md R44): the record of the SINK, which takes no step. (log 13) -/
  out : List Event
  /-- The model's own: what the HOST and SRC do next, in order (00_scope.md R4, 20_memory.md R78). (log 1, log 2) -/
  timeline : List PortAction
deriving DecidableEq, Repr

/-- What a meaning or a step answers. -/
abbrev Result := Host.Outcome State Fault Refusal

/-- Reset with `P_MIDI_CHANNEL = channel` and the receive stream as it stands (70_reset_and_hazards.md R310, R311, R313). -/
def State.resetWith (channel : Int) (rx : List Byte) : State where
  filter := syncFilter channel
  activeDyn := true
  gain := BitVec.ofNat 11 Config.unity
  status := 0
  resp := 0
  dyn := Vector.replicate 128 .default
  ssData := Vector.replicate 128 .default
  ssSize := 0
  ssCap := BitVec.ofNat 8 Config.bvInitCap
  pstate := .idle
  rx := rx
  out := []
  timeline := []

/-- The machine right after reset (70_reset_and_hazards.md R310) with the open parameter of 00_scope.md R5, an empty
receive stream (log 5) and nothing issued yet (log 1). -/
def State.reset : State := State.resetWith Config.pMidiChannel []

end Sys2Proof.Machine
end

