-- ==== Sys2Proof/Machine/Operands.lean ====
section
/-! DEFINITION. Operand forms (30_encoding.md R102, R103), slot construction (41_dmx_slot.md R170) and the response words (30_encoding.md R107). -/

namespace Sys2Proof.Machine

/-- `MakeSlot(ch, in) = (1, ch, in)`; it clamps nothing (41_dmx_slot.md R170). -/
def makeSlot (ch intensity : BitVec 8) : Slot := ⟨true, ch, intensity⟩

/-- The slot operand of format S: `(S, C, I)` when `S = 1`, `DEFAULT` when `S = 0` (30_encoding.md R102). -/
def slotOperand (s : Bool) (c i : BitVec 8) : Slot := if s then makeSlot c i else .default

/-- The entry an index operand `X` names: the raw unsigned field (30_encoding.md R103). -/
def indexOperand (x : BitVec 7) : Nat := x.toNat

/-- Format RN: `0x00000000` (30_encoding.md R107). -/
def respNone : Word := 0x00000000#32

/-- Format RCC with `V = 1`: `[16] = 1`, `[15:8] = controller`, `[7:0] = value` (30_encoding.md R107). -/
def respCc (controller value : Byte) : Word :=
  0x00010000#32 ||| (controller.setWidth 32 <<< 8) ||| value.setWidth 32

/-- Format RSLOT, `SlotWord(s) = {15'b0, s.set, s.ch, s.in}` (30_encoding.md R107). -/
def slotWord (s : Slot) : Word :=
  ((BitVec.ofBool s.set).setWidth 32 <<< 16) ||| (s.ch.setWidth 32 <<< 8) ||| s.intensity.setWidth 32

/-- Format RVAL: `zext_32(value)` (30_encoding.md R107). -/
def respVal {n : Nat} (value : BitVec n) : Word := value.setWidth 32

end Sys2Proof.Machine
end

