-- ==== Sys2Proof/Machine/Flags.lean ====
section
/-! DEFINITION. The flags and tests the rules compute: the STATUS bits (10_state.md R40), slot equality and truth (R46, R47), the channel filter, the dead zone and the data-byte test. -/

namespace Sys2Proof.Machine

/-- The STATUS bit of a fault code (60_exceptions.md R281). -/
def statusBit : FaultCode → Word
  | .illegal => 0x00000001#32
  | .bvIndex => 0x00000002#32

/-- `SlotEq(a, b)`: all three fields are equal (10_state.md R46). -/
def slotEq (a b : Slot) : Bool := a.set == b.set && a.ch == b.ch && a.intensity == b.intensity

/-- The truth value of a slot is its `set` field (10_state.md R47). -/
def slotTruth (s : Slot) : Bool := s.set

/-- "channel ≤ 127" (43_scene_engine.md R223, R226). -/
def channelAccepted (ch : BitVec 8) : Bool := decide (ch.toNat ≤ Config.chMax)

/-- `abs(G - GAIN) > 5` on exact integers (43_scene_engine.md R224, R225). -/
def outsideDeadZone (g : BitVec 16) (gain : BitVec 11) : Bool :=
  decide (Config.deadZone < ((g.toNat : Int) - (gain.toNat : Int)).natAbs)

/-- A data byte has bit 7 clear (42_frame_parser.md R192, R195). -/
def isDataByte (b : Byte) : Bool := !b.getLsbD 7

/-- `empty()`: SS_SIZE == 0 (40_bounded_vector.md R147). -/
def storeEmpty (size : BitVec 8) : Bool := size == 0

end Sys2Proof.Machine
end

