-- ==== Sys2Proof/Machine/Ops.lean ====
section
/-! DEFINITION. The operations the meanings share: the response, output events, the recorded fault, the receive stream with SRC's arrivals, the two scenes and their walks, the gain scaler, the static-scene store and reset. -/

namespace Sys2Proof.Machine

/-! ### Response, output and faults -/

/-- `Respond(w)`: RESP <- w (00_scope.md R8, 30_encoding.md R107). -/
def State.respond (s : State) (w : Word) : State := { s with resp := w }

/-- `Emit` of each event in order (00_scope.md R8, 10_state.md R44). -/
def State.emitAll (s : State) (events : List Event) : State := { s with out := s.out ++ events }

/-- `raise Fault(code)`, the block's whole fault entry: the code's STATUS bit is set, RESP <- 0 and the command ends
with no other effect (60_exceptions.md R281, R284). There is no vector, no saved context, no mode change and no
return: the bits are sticky until reset (R285). -/
def State.raiseFault (s : State) (code : FaultCode) : State :=
  { s with status := s.status ||| statusBit code, resp := respNone }

/-- Reset of a running block: every register and store at its reset value, RX kept (70_reset_and_hazards.md R310 to
R313); what the outside agents do next is theirs. (log 6) -/
def State.applyReset (s : State) (channel : Int) : State :=
  { State.resetWith channel s.rx with timeline := s.timeline }

/-! ### The receive stream (42_frame_parser.md R191, 20_memory.md R78) -/

/-- SRC appends bytes to the young end of RX (20_memory.md R78). -/
def State.rxAppend (s : State) (bytes : List Byte) : State := { s with rx := s.rx ++ bytes }

/-- The point before one RX access at which an arrival may fall (20_memory.md R78): an arrival at the head of the
timeline lands now. (log 2) -/
def State.deliver (s : State) : State :=
  match s.timeline with
  | .arrive bytes :: rest => { s with rx := s.rx ++ bytes, timeline := rest }
  | _ => s

/-- `RxAvail()`: the number of bytes now in RX (00_scope.md R8). -/
def State.rxAvail (s : State) : Nat × State := (s.deliver.rx.length, s.deliver)

/-- `RxPop()`: removes and returns the oldest byte (00_scope.md R8); `none` when there is none. -/
def State.rxPop (s : State) : Option (Byte × State) :=
  match s.deliver.rx with
  | b :: rest => some (b, { s.deliver with rx := rest })
  | [] => none

/-! ### Scenes (43_scene_engine.md R220 to R222) -/

/-- Entry `i` of a 128-entry scene array; every rule's index is 0..127 (20_memory.md R72). (log 15) -/
def slotAt (v : Vector Slot 128) (i : Nat) : Slot := v[i]?.getD .default

/-- `DYN[i] <- slot` (00_scope.md R8). -/
def State.setDyn (s : State) (i : Nat) (slot : Slot) : State := { s with dyn := s.dyn.setIfInBounds i slot }

/-- `GAIN <- v` (00_scope.md R8). -/
def State.setGainReg (s : State) (v : Nat) : State := { s with gain := BitVec.ofNat 11 v }

/-- `ACTIVE_DYN <- d` (00_scope.md R8). -/
def State.setActive (s : State) (d : Bool) : State := { s with activeDyn := d }

/-- The walk of DYN: DYN[0], …, DYN[127] (43_scene_engine.md R221). -/
def State.dynScene (s : State) : List Slot := s.dyn.toList

/-- The walk of SS: SS_DATA[0], …, SS_DATA[SS_SIZE-1] (43_scene_engine.md R221). -/
def State.staticScene (s : State) : List Slot := s.ssData.toList.take s.ssSize.toNat

/-- The active scene (43_scene_engine.md, head). -/
def State.activeScene (s : State) : List Slot := if s.activeDyn then s.dynScene else s.staticScene

/-- `Scale(x) = (x * GAIN) >> 10` (43_scene_engine.md R220). -/
def scale (gain : BitVec 11) (x : BitVec 8) : BitVec 8 :=
  BitVec.ofNat 8 ((x.toNat * gain.toNat) >>> Config.gainShift)

/-- The events of `Blackout` over a scene: `(ch, 0)` for every set slot (43_scene_engine.md R222). -/
def blackoutEvents (scene : List Slot) : List Event := (scene.filter slotTruth).map fun x => ⟨x.ch, 0⟩

/-- The events of `Resend` over a scene: `(ch, Scale(in))` for every set slot (43_scene_engine.md R222). -/
def resendEvents (gain : BitVec 11) (scene : List Slot) : List Event :=
  (scene.filter slotTruth).map fun x => ⟨x.ch, scale gain x.intensity⟩

/-- `Blackout(X)` (43_scene_engine.md R222). -/
def State.blackout (s : State) (scene : List Slot) : State := s.emitAll (blackoutEvents scene)

/-- `Resend(X)`, at the gain of the time of the pass (43_scene_engine.md R222). -/
def State.resend (s : State) (scene : List Slot) : State := s.emitAll (resendEvents s.gain scene)

/-! ### The static-scene store (40_bounded_vector.md R141, R143) -/

/-- The capacity doubles, capped at 128, when the store is full below the ceiling (40_bounded_vector.md R141). -/
def State.bvGrow (s : State) : State :=
  if s.ssSize = s.ssCap ∧ s.ssCap.toNat < Config.bvMax then
    { s with ssCap := BitVec.ofNat 8 (min (2 * s.ssCap.toNat) Config.bvMax) }
  else s

/-- The element is stored at the end when there is room, else silently dropped (40_bounded_vector.md R141, R150). -/
def State.bvStore (s : State) (v : Slot) : State :=
  if s.ssSize.toNat < s.ssCap.toNat then
    { s with ssData := s.ssData.setIfInBounds s.ssSize.toNat v, ssSize := BitVec.ofNat 8 (s.ssSize.toNat + 1) }
  else s

/-- `BvPush(v)` (40_bounded_vector.md R141). -/
def State.bvPush (s : State) (v : Slot) : State := s.bvGrow.bvStore v

/-- The removal of BV_POP: the size drops and the vacated entry becomes DEFAULT; nothing on an empty store
(40_bounded_vector.md R143). -/
def State.bvPop (s : State) : State :=
  if storeEmpty s.ssSize then s
  else
    { s with
      ssSize := BitVec.ofNat 8 (s.ssSize.toNat - 1)
      ssData := s.ssData.setIfInBounds (s.ssSize.toNat - 1) .default }

end Sys2Proof.Machine
end

