-- ==== Sys2Proof/Machine/BoundedVector.lean ====
section
/-! DEFINITION. The memory manager's commands BV_* over the static-scene store (40_bounded_vector.md R142 to R148). -/

namespace Sys2Proof.Machine

/-- BV_PUSH (40_bounded_vector.md R142): no channel filter, and DEFAULT can be pushed. -/
def execBvPush (set : Bool) (c i : BitVec 8) (s : State) : Result :=
  .next ((s.bvPush (slotOperand set c i)).respond respNone)

/-- BV_POP (40_bounded_vector.md R143). -/
def execBvPop (s : State) : Result := .next (s.bvPop.respond respNone)

/-- BV_SIZE (40_bounded_vector.md R144). -/
def execBvSize (s : State) : Result := .next (s.respond (respVal s.ssSize))

/-- BV_CAPACITY (40_bounded_vector.md R145). -/
def execBvCapacity (s : State) : Result := .next (s.respond (respVal s.ssCap))

/-- BV_MAX_SIZE: 128, whatever the state (40_bounded_vector.md R146). -/
def execBvMaxSize (s : State) : Result := .next (s.respond (BitVec.ofNat 32 Config.bvMax))

/-- BV_EMPTY (40_bounded_vector.md R147). -/
def execBvEmpty (s : State) : Result := .next (s.respond (if storeEmpty s.ssSize then 1 else 0))

/-- BV_READ (40_bounded_vector.md R148); an index at or beyond SS_SIZE raises BV_INDEX (60_exceptions.md R283). -/
def execBvRead (x : BitVec 7) (s : State) : Result :=
  if indexOperand x < s.ssSize.toNat then .next (s.respond (slotWord (slotAt s.ssData (indexOperand x))))
  else .next (s.raiseFault .bvIndex)

end Sys2Proof.Machine
end

