-- ==== Sys2Proof/Machine/Convert.lean ====
section
/-! DEFINITION. TO_DMX, the MIDI-to-DMX conversion (41_dmx_slot.md R171, R172). -/

namespace Sys2Proof.Machine

/-- `ToDmx(controller, value) = MakeSlot(min(controller, 127), min(value, 127) * 2)` (41_dmx_slot.md R171). -/
def toDmx (controller value : BitVec 8) : Slot :=
  makeSlot (BitVec.ofNat 8 (min controller.toNat 127)) (BitVec.ofNat 8 (min value.toNat 127 * 2))

/-- TO_DMX (41_dmx_slot.md R172). -/
def execToDmx (a b : BitVec 8) (s : State) : Result := .next (s.respond (slotWord (toDmx a b)))

end Sys2Proof.Machine
end

