-- ==== Sys2Proof/Machine/Parser.lean ====
section
/-! DEFINITION. READ_CC, the MIDI CC frame parser, as the micro-steps of PSTATE (42_frame_parser.md R192). -/

namespace Sys2Proof.Machine

/-- The "no message" outcome: RESP <- 0, PSTATE <- IDLE (42_frame_parser.md R192, R197). -/
def State.noMessage (s : State) : State := { s with resp := respNone, pstate := .idle }

/-- The end of a harvest that popped `d1` and `d2`: both are tested after both are popped
(42_frame_parser.md R192 steps 3 and 4, R195). (log 10) -/
def State.harvested (s : State) (d1 d2 : Byte) : State :=
  if isDataByte d1 && isDataByte d2 then { s with resp := respCc d1 d2, pstate := .idle } else s.noMessage

/-- Step 1 of R192, one turn of the scan loop. -/
def State.scanStep (s : State) : Result :=
  if s.rxAvail.1 = 0 then .next s.rxAvail.2.noMessage
  else
    match s.rxAvail.2.rxPop with
    | none => .refused .rxSentinel
    | some (b, s') => .next (if b = s'.filter then { s' with pstate := .avail } else s')

/-- Step 2 of R192: two more bytes now, tested once (R194). -/
def State.availStep (s : State) : State :=
  if s.rxAvail.1 < 2 then s.rxAvail.2.noMessage else { s.rxAvail.2 with pstate := .harvest }

/-- Steps 3 and 4 of R192. -/
def State.harvestStep (s : State) : Result :=
  match s.rxPop with
  | none => .refused .rxSentinel
  | some (d1, s1) =>
    match s1.rxPop with
    | none => .refused .rxSentinel
    | some (d2, s2) => .next (s2.harvested d1 d2)

/-- One labelled line of 42_frame_parser.md R192, by PSTATE. -/
def parserStep (s : State) : Result :=
  match s.pstate with
  | .idle => .next s
  | .scan => s.scanStep
  | .avail => .next s.availStep
  | .harvest => s.harvestStep

/-- The parser's micro-steps until PSTATE is IDLE, at most `fuel` of them. (log 8) -/
def runParser : Nat → State → Result
  | 0, s => if s.pstate = .idle then .next s else .fault .scanUnending
  | fuel + 1, s =>
    if s.pstate = .idle then .next s
    else
      match parserStep s with
      | .next s' => runParser fuel s'
      | .fault r => .fault r
      | .refused r => .refused r

/-- The bytes that can still arrive while one READ_CC runs: those before the next HOST action. -/
def arrivingBytes : List PortAction → Nat
  | .arrive bytes :: rest => bytes.length + arrivingBytes rest
  | _ => 0

/-- More micro-steps than a scan of finitely many bytes can take (42_frame_parser.md R198). -/
def parserFuel (s : State) : Nat := s.rx.length + arrivingBytes s.timeline + 3

/-- READ_CC (42_frame_parser.md R192): the parser from SCAN to IDLE. (log 8, log 14) -/
def execReadCc (s : State) : Result := runParser (parserFuel s) { s with pstate := .scan }

end Sys2Proof.Machine
end

