-- ==== Sys2Proof/Machine/Query.lean ====
section
/-! DEFINITION. The observation commands GET_* (44_query.md R260 to R264). -/

namespace Sys2Proof.Machine

/-- GET_GAIN (44_query.md R260). -/
def execGetGain (s : State) : Result := .next (s.respond (respVal s.gain))

/-- GET_SCENE (44_query.md R261). -/
def execGetScene (s : State) : Result := .next (s.respond (respVal (BitVec.ofBool s.activeDyn)))

/-- GET_FILTER (44_query.md R262). -/
def execGetFilter (s : State) : Result := .next (s.respond (respVal s.filter))

/-- GET_STATUS; it does not clear STATUS (44_query.md R263). -/
def execGetStatus (s : State) : Result := .next (s.respond (respVal s.status))

/-- GET_DYN (44_query.md R264). -/
def execGetDyn (x : BitVec 7) (s : State) : Result := .next (s.respond (slotWord (slotAt s.dyn (indexOperand x))))

end Sys2Proof.Machine
end

