-- ==== Sys2Proof/WellFormed.lean ====
section
/-! DEFINITION. Operand ranges: which assembler lines the assembler accepts ("An operand out of its range is refused by the assembler", 30_encoding.md R109, R111), and the same ranges for an instruction, whose field widths make it well formed by type. -/

namespace Sys2Proof

/-- The operand is one byte, 0..255 (30_encoding.md R103, R109). -/
def isByteOperand (n : Nat) : Bool := decide (n ≤ 255)

/-- The operand is an entry index, 0..127 (30_encoding.md R103, R109). -/
def isIndexOperand (n : Nat) : Bool := decide (n ≤ 127)

/-- The operand is a gain, 0..65535 (30_encoding.md R103, R109). -/
def isGainOperand (n : Nat) : Bool := decide (n ≤ 65535)

/-- The operand is a 32-bit word (30_encoding.md R109). -/
def isWordOperand (n : Nat) : Bool := decide (n < 2 ^ 32)

/-- Every operand of the line is in its range (30_encoding.md R109, R111). -/
def AsmLine.wellFormed : AsmLine → Bool
  | .toDmx a b => isByteOperand a && isByteOperand b
  | .setValue c i => isByteOperand c && isByteOperand i
  | .setGain g => isGainOperand g
  | .staticAppend c k => isByteOperand c && isByteOperand k
  | .getDyn x => isIndexOperand x
  | .bvPush c i => isByteOperand c && isByteOperand i
  | .bvRead x => isIndexOperand x
  | .word w => isWordOperand w
  | .setStaticScene rs gs bs r g b =>
      rs.all isByteOperand && gs.all isByteOperand && bs.all isByteOperand &&
        isByteOperand r && isByteOperand g && isByteOperand b
  | .readCc | .setValueUnset | .switchSceneStatic | .switchSceneDynamic | .getGain | .getScene | .getFilter
  | .getStatus | .bvPushUnset | .bvPop | .bvSize | .bvCapacity | .bvMaxSize | .bvEmpty => true

/-- Every field of the instruction, read as a number, is in the range of 30_encoding.md R103 and R108.
`Laws.instr_wellFormed` shows that the field widths leave no other instruction. -/
def Instr.wellFormed : Instr → Bool
  | .toDmx a b => isByteOperand a.toNat && isByteOperand b.toNat
  | .setValue _ c i => isByteOperand c.toNat && isByteOperand i.toNat
  | .setGain g => isGainOperand g.toNat
  | .staticAppend a b => isByteOperand a.toNat && isByteOperand b.toNat
  | .getDyn x => isIndexOperand x.toNat
  | .bvPush _ c i => isByteOperand c.toNat && isByteOperand i.toNat
  | .bvRead x => isIndexOperand x.toNat
  | .midiCcFrame n c v => decide (n.toNat ≤ 15) && isIndexOperand c.toNat && isIndexOperand v.toNat
  | .readCc | .switchScene _ | .getGain | .getScene | .getFilter | .getStatus | .bvPop | .bvSize | .bvCapacity
  | .bvMaxSize | .bvEmpty => true

end Sys2Proof
end

