-- ==== Sys2Proof/Decode.lean ====
section
/-! DEFINITION. Decoding of command words by the opcode table (30_encoding.md R106), recognition of the receive-stream frame (R108), and after them the encoder and the assembler (R101, R109, R111). -/

namespace Sys2Proof

/-! ### Fields (30_encoding.md R101) -/

/-- `A` or `C`: `w[15:8]`. -/
def fieldHigh (w : Word) : BitVec 8 := w.extractLsb' 8 8

/-- `B` or `I`: `w[7:0]`. -/
def fieldLow (w : Word) : BitVec 8 := w.extractLsb' 0 8

/-- `S`: `w[16]`. -/
def fieldSet (w : Word) : Bool := w.getLsbD 16

/-- `G`: `w[15:0]`. -/
def fieldGain (w : Word) : BitVec 16 := w.extractLsb' 0 16

/-- `D`: `w[0]`. -/
def fieldDynamic (w : Word) : Bool := w.getLsbD 0

/-- `X`: `w[6:0]`. -/
def fieldIndex (w : Word) : BitVec 7 := w.extractLsb' 0 7

/-! ### The decoder -/

/-- A command row of opcode_table.json. -/
structure CommandRow where
  /-- The row's mnemonic. -/
  mnemonic : String
  /-- The row's mask. -/
  mask : Word
  /-- The row's match value. -/
  value : Word
  /-- The instruction the row's fields give. -/
  build : Word → Instr

/-- The row selects the word: `(w & mask) == match` (30_encoding.md R106). -/
def CommandRow.selects (r : CommandRow) (w : Word) : Bool := w &&& r.mask == r.value

/-- The rows of OP 0x1 to 0x6 (30_encoding.md R104). -/
def engineRows : List CommandRow :=
  [ ⟨"READ_CC",       0xFFFFFFFF#32, 0x10000000#32, fun _ => .readCc⟩,
    ⟨"TO_DMX",        0xFFFF0000#32, 0x20000000#32, fun w => .toDmx (fieldHigh w) (fieldLow w)⟩,
    ⟨"SET_VALUE",     0xFFFE0000#32, 0x30000000#32, fun w => .setValue (fieldSet w) (fieldHigh w) (fieldLow w)⟩,
    ⟨"SET_GAIN",      0xFFFF0000#32, 0x40000000#32, fun w => .setGain (fieldGain w)⟩,
    ⟨"STATIC_APPEND", 0xFFFF0000#32, 0x50000000#32, fun w => .staticAppend (fieldHigh w) (fieldLow w)⟩,
    ⟨"SWITCH_SCENE",  0xFFFFFFFE#32, 0x60000000#32, fun w => .switchScene (fieldDynamic w)⟩ ]

/-- The query group, OP 0x7 with SEL 0x0 to 0x4 (30_encoding.md R105). -/
def queryRows : List CommandRow :=
  [ ⟨"GET_GAIN",   0xFFFFFFFF#32, 0x70000000#32, fun _ => .getGain⟩,
    ⟨"GET_SCENE",  0xFFFFFFFF#32, 0x71000000#32, fun _ => .getScene⟩,
    ⟨"GET_FILTER", 0xFFFFFFFF#32, 0x72000000#32, fun _ => .getFilter⟩,
    ⟨"GET_STATUS", 0xFFFFFFFF#32, 0x73000000#32, fun _ => .getStatus⟩,
    ⟨"GET_DYN",    0xFFFFFF80#32, 0x74000000#32, fun w => .getDyn (fieldIndex w)⟩ ]

/-- The memory manager's rows, OP 0x8 to 0xE (30_encoding.md R104). -/
def vectorRows : List CommandRow :=
  [ ⟨"BV_PUSH",     0xFFFE0000#32, 0x80000000#32, fun w => .bvPush (fieldSet w) (fieldHigh w) (fieldLow w)⟩,
    ⟨"BV_POP",      0xFFFFFFFF#32, 0x90000000#32, fun _ => .bvPop⟩,
    ⟨"BV_SIZE",     0xFFFFFFFF#32, 0xA0000000#32, fun _ => .bvSize⟩,
    ⟨"BV_CAPACITY", 0xFFFFFFFF#32, 0xB0000000#32, fun _ => .bvCapacity⟩,
    ⟨"BV_MAX_SIZE", 0xFFFFFFFF#32, 0xC0000000#32, fun _ => .bvMaxSize⟩,
    ⟨"BV_EMPTY",    0xFFFFFFFF#32, 0xD0000000#32, fun _ => .bvEmpty⟩,
    ⟨"BV_READ",     0xFFFFFF80#32, 0xE0000000#32, fun w => .bvRead (fieldIndex w)⟩ ]

/-- Every command row of the table; the row MIDI_CC_FRAME takes no part in decoding (30_encoding.md R106). -/
def commandRows : List CommandRow := engineRows ++ queryRows ++ vectorRows

/-- `Decode(w)` of 30_encoding.md R106; `none` is ILLEGAL. -/
def decodeCommand (w : Word) : Option Instr := (commandRows.find? (·.selects w)).map (·.build w)

/-- Three bytes in arrival order as the 24-bit pattern of 30_encoding.md R108. -/
def frameBits (status controller value : Byte) : BitVec 24 :=
  (status.setWidth 24 <<< 16) ||| (controller.setWidth 24 <<< 8) ||| value.setWidth 24

/-- The frame of 30_encoding.md R108 (`match 0xB00000`, `mask 0xF08080`) among byte sequences; any other sequence is no frame. -/
def decodeFrame : List Byte → Option Instr
  | [status, controller, value] =>
      if frameBits status controller value &&& 0xF08080#24 = 0xB00000#24 then
        some (.midiCcFrame (status.extractLsb' 0 4) (controller.extractLsb' 0 7) (value.extractLsb' 0 7))
      else none
  | _ => none

/-- The instruction an agent's action presents, if it presents one. -/
def decodeAction : PortAction → Option Instr
  | .command w => decodeCommand w
  | .arrive bytes => decodeFrame bytes
  | .reset _ => none

/-- A 24-bit frame as its three bytes in arrival order, the status byte first (30_encoding.md R108). -/
def frameBytes (f : BitVec 24) : List Byte := [f.extractLsb' 16 8, f.extractLsb' 8 8, f.extractLsb' 0 8]

/-- The action that presents an instruction whose `nbits` bits, numbered as opcode_table.json numbers them, are `w`:
24 bits are the receive-stream frame's row, every other width a command word with zeros above. (log 11) -/
def tableAction (nbits w : Nat) : PortAction :=
  if nbits = 24 then .arrive (frameBytes (BitVec.ofNat 24 w)) else .command (BitVec.ofNat 32 (w % 2 ^ nbits))

/-- What the decoder reads from a word of the opcode table. -/
def decodeTableWord (nbits w : Nat) : Option Instr := decodeAction (tableAction nbits w)

/-! ### The encoder (30_encoding.md R101, R109) -/

/-- Format B: `A` in [15:8], `B` in [7:0]. -/
def wordB (op : Word) (a b : BitVec 8) : Word := op ||| (a.setWidth 32 <<< 8) ||| b.setWidth 32

/-- Format S: `S` in [16], `C` in [15:8], `I` in [7:0]. -/
def wordS (op : Word) (s : Bool) (c i : BitVec 8) : Word :=
  op ||| ((BitVec.ofBool s).setWidth 32 <<< 16) ||| (c.setWidth 32 <<< 8) ||| i.setWidth 32

/-- Format G: `G` in [15:0]. -/
def wordG (op : Word) (g : BitVec 16) : Word := op ||| g.setWidth 32

/-- Format F: `D` in [0]. -/
def wordF (op : Word) (d : Bool) : Word := op ||| (BitVec.ofBool d).setWidth 32

/-- Formats Q (GET_DYN) and I: `X` in [6:0]. -/
def wordX (op : Word) (x : BitVec 7) : Word := op ||| x.setWidth 32

/-- The status byte of MIDI channel `n` + 1: `1011nnnn` (30_encoding.md R108). -/
def statusByte (n : BitVec 4) : Byte := 0xB0#8 ||| n.setWidth 8

/-- The three bytes of a CC frame in arrival order (30_encoding.md R108, 20_memory.md R71). -/
def encodeFrame (n : BitVec 4) (c v : BitVec 7) : List Byte := [statusByte n, c.setWidth 8, v.setWidth 8]

/-- The action that presents an instruction: its command word (30_encoding.md R104, R105), or its bytes' arrival. -/
def encode : Instr → PortAction
  | .readCc => .command 0x10000000#32
  | .toDmx a b => .command (wordB 0x20000000#32 a b)
  | .setValue s c i => .command (wordS 0x30000000#32 s c i)
  | .setGain g => .command (wordG 0x40000000#32 g)
  | .staticAppend a b => .command (wordB 0x50000000#32 a b)
  | .switchScene d => .command (wordF 0x60000000#32 d)
  | .getGain => .command 0x70000000#32
  | .getScene => .command 0x71000000#32
  | .getFilter => .command 0x72000000#32
  | .getStatus => .command 0x73000000#32
  | .getDyn x => .command (wordX 0x74000000#32 x)
  | .bvPush s c i => .command (wordS 0x80000000#32 s c i)
  | .bvPop => .command 0x90000000#32
  | .bvSize => .command 0xA0000000#32
  | .bvCapacity => .command 0xB0000000#32
  | .bvMaxSize => .command 0xC0000000#32
  | .bvEmpty => .command 0xD0000000#32
  | .bvRead x => .command (wordX 0xE0000000#32 x)
  | .midiCcFrame n c v => .arrive (encodeFrame n c v)

/-! ### The assembler (30_encoding.md R109, R111) -/

/-- `base | high<<8 | low` of an assembler line, in numbers (30_encoding.md R109). -/
def asmWord (base high low : Nat) : Word := BitVec.ofNat 32 (base + high * 256 + low)

/-- The STATIC_APPEND words of one channel list with its colour (30_encoding.md R111). -/
def staticAppendWords (channels : List Nat) (colour : Nat) : List Word :=
  channels.map fun c => asmWord 0x50000000 c colour

/-- The words of an assembler line; a line with an operand out of its range is refused (30_encoding.md R109, R111). -/
def assemble (line : AsmLine) : Option (List Word) :=
  if line.wellFormed then
    some <| match line with
      | .readCc => [0x10000000#32]
      | .toDmx a b => [asmWord 0x20000000 a b]
      | .setValue c i => [asmWord 0x30010000 c i]
      | .setValueUnset => [0x30000000#32]
      | .setGain g => [asmWord 0x40000000 0 g]
      | .staticAppend c k => [asmWord 0x50000000 c k]
      | .switchSceneStatic => [0x60000000#32]
      | .switchSceneDynamic => [0x60000001#32]
      | .getGain => [0x70000000#32]
      | .getScene => [0x71000000#32]
      | .getFilter => [0x72000000#32]
      | .getStatus => [0x73000000#32]
      | .getDyn x => [asmWord 0x74000000 0 x]
      | .bvPush c i => [asmWord 0x80010000 c i]
      | .bvPushUnset => [0x80000000#32]
      | .bvPop => [0x90000000#32]
      | .bvSize => [0xA0000000#32]
      | .bvCapacity => [0xB0000000#32]
      | .bvMaxSize => [0xC0000000#32]
      | .bvEmpty => [0xD0000000#32]
      | .bvRead x => [asmWord 0xE0000000 0 x]
      | .word w => [BitVec.ofNat 32 w]
      | .setStaticScene rs gs bs r g b =>
          staticAppendWords rs r ++ staticAppendWords gs g ++ staticAppendWords bs b
  else none

end Sys2Proof
end

