-- ==== Sys2Proof/Machine/Receive.lean ====
section
/-! DEFINITION. The receive-stream frame MIDI_CC_FRAME (30_encoding.md R108) as what SRC does with it: its three bytes arrive on RX. -/

namespace Sys2Proof.Machine

/-- MIDI_CC_FRAME (30_encoding.md R108): the status, controller and value bytes arrive at the young end of RX in that
order (20_memory.md R71, R78). Only READ_CC parses them; no register changes. (log 3) -/
def execMidiCcFrame (n : BitVec 4) (c v : BitVec 7) (s : State) : Result := .next (s.rxAppend (encodeFrame n c v))

end Sys2Proof.Machine
end

