-- ==== Sys2Proof/Machine/Scene.lean ====
section
/-! DEFINITION. The scene engine's commands: SET_VALUE, SET_GAIN, STATIC_APPEND, SWITCH_SCENE (43_scene_engine.md R223 to R227). -/

namespace Sys2Proof.Machine

/-- The event of a SET_VALUE that writes `slot` over `prev`, if it changed and the dynamic scene is active
(43_scene_engine.md R223). -/
def setValueEvents (s : State) (prev slot : Slot) : List Event :=
  if !slotEq slot prev && s.activeDyn then [⟨slot.ch, scale s.gain slot.intensity⟩] else []

/-- The effect of SET_VALUE for its operand slot, before the response (43_scene_engine.md R223). -/
def State.setValue (s : State) (slot : Slot) : State :=
  if slot.set && channelAccepted slot.ch then
    (s.setDyn slot.ch.toNat slot).emitAll (setValueEvents s (slotAt s.dyn slot.ch.toNat) slot)
  else s

/-- SET_VALUE (43_scene_engine.md R223). -/
def execSetValue (set : Bool) (c i : BitVec 8) (s : State) : Result :=
  .next ((s.setValue (slotOperand set c i)).respond respNone)

/-- `GAIN <- min(G, 1024)` and the resend of the active scene at the new gain (43_scene_engine.md R224). -/
def State.acceptGain (s : State) (g : BitVec 16) : State :=
  (s.setGainReg (min g.toNat Config.unity)).resend s.activeScene

/-- SET_GAIN (43_scene_engine.md R224, R225). -/
def execSetGain (g : BitVec 16) (s : State) : Result :=
  .next ((if outsideDeadZone g s.gain then s.acceptGain g else s).respond respNone)

/-- STATIC_APPEND (43_scene_engine.md R226): a channel above 127 is skipped, not clamped. -/
def execStaticAppend (a b : BitVec 8) (s : State) : Result :=
  .next ((if channelAccepted a then s.bvPush (makeSlot a b) else s).respond respNone)

/-- The flip of ACTIVE_DYN with its blackout and resend passes (43_scene_engine.md R227). -/
def State.flipScene (s : State) (d : Bool) : State :=
  if d then ((s.setActive true).blackout s.staticScene).resend s.dynScene
  else ((s.setActive false).blackout s.dynScene).resend s.staticScene

/-- SWITCH_SCENE (43_scene_engine.md R227). -/
def execSwitchScene (d : Bool) (s : State) : Result :=
  .next ((if d = s.activeDyn then s else s.flipScene d).respond respNone)

end Sys2Proof.Machine
end

