-- ==== Sys2Proof/Machine/Dispatch.lean ====
section
/-! DEFINITION. One arm per constructor of Instr, each one call of its meaning. -/

namespace Sys2Proof.Machine

def exec (i : Instr) (s : State) : Host.Outcome State Fault Refusal :=
  match i with
  | .readCc => Sys2Proof.Machine.execReadCc s
  | .toDmx a b => Sys2Proof.Machine.execToDmx a b s
  | .setValue set c x => Sys2Proof.Machine.execSetValue set c x s
  | .setGain g => Sys2Proof.Machine.execSetGain g s
  | .staticAppend a b => Sys2Proof.Machine.execStaticAppend a b s
  | .switchScene d => Sys2Proof.Machine.execSwitchScene d s
  | .getGain => Sys2Proof.Machine.execGetGain s
  | .getScene => Sys2Proof.Machine.execGetScene s
  | .getFilter => Sys2Proof.Machine.execGetFilter s
  | .getStatus => Sys2Proof.Machine.execGetStatus s
  | .getDyn x => Sys2Proof.Machine.execGetDyn x s
  | .bvPush set c x => Sys2Proof.Machine.execBvPush set c x s
  | .bvPop => Sys2Proof.Machine.execBvPop s
  | .bvSize => Sys2Proof.Machine.execBvSize s
  | .bvCapacity => Sys2Proof.Machine.execBvCapacity s
  | .bvMaxSize => Sys2Proof.Machine.execBvMaxSize s
  | .bvEmpty => Sys2Proof.Machine.execBvEmpty s
  | .bvRead x => Sys2Proof.Machine.execBvRead x s
  | .midiCcFrame n c v => Sys2Proof.Machine.execMidiCcFrame n c v s

end Sys2Proof.Machine
end

