-- ==== Sys2Proof/Machine/Fetch.lean ====
section
/-! DEFINITION. What the next action of the timeline presents to the block: an instruction to run, or an effect that no instruction names (nothing issued, an illegal word, bytes that form no frame, a reset). -/

namespace Sys2Proof.Machine

/-- The next action's presentation. -/
inductive Fetched where
  /-- An instruction, and the state it runs in (the action taken off the timeline). -/
  | run (i : Instr) (s : State)
  /-- No instruction: the state the step ends in. -/
  | settle (s : State)

/-- The effect of an action that presents no instruction: ILLEGAL for a command word (60_exceptions.md R282), the
arrival of bytes (20_memory.md R78), reset (70_reset_and_hazards.md R310). -/
def settleAction (a : PortAction) (s : State) : State :=
  match a with
  | .command _ => s.raiseFault .illegal
  | .arrive bytes => s.rxAppend bytes
  | .reset channel => s.applyReset channel

/-- Takes the next action; with none the block holds its state (60_exceptions.md R293). (log 1, log 9) -/
def fetch (s : State) : Fetched :=
  match s.timeline with
  | [] => .settle s
  | a :: rest =>
    match decodeAction a with
    | some i => .run i { s with timeline := rest }
    | none => .settle (settleAction a { s with timeline := rest })

end Sys2Proof.Machine
end

