-- ==== Sys2Proof/Machine/Step.lean ====
section
/-! DEFINITION. One machine step: the next action of the HOST or SRC with the block's whole answer to it (00_scope.md R4, 20_memory.md R76). -/

namespace Sys2Proof.Machine

/-- One step: the next action of the timeline, executed to completion (20_memory.md R76). -/
def step (s : State) : Host.Outcome State Fault Refusal :=
  match fetch s with
  | .run i s' => exec i s'
  | .settle s' => .next s'

/-- `s` with the instruction whose `nbits` table bits are `w` as the next action of the timeline. (log 1, log 11) -/
def State.withFetchWord (s : State) (nbits w : Nat) : State :=
  { s with timeline := tableAction nbits w :: s.timeline }

end Sys2Proof.Machine
end

