-- ==== Sys2Proof/Machine/Pseudo.lean ====
section
/-! DEFINITION. The HOST's procedures over the commands: issuing words one after another, and the pseudo-instructions POLL and SET_STATIC_SCENE (30_encoding.md R110, R111). -/

namespace Sys2Proof.Machine

/-- The HOST issues one word and waits for its completion (20_memory.md R76): a legal word executes, an illegal one
raises ILLEGAL (60_exceptions.md R282). (log 12) -/
def issue (w : Word) (s : State) : Result :=
  match decodeCommand w with
  | some i => exec i s
  | none => .next (s.raiseFault .illegal)

/-- Goes on from a next state; a stop stays. -/
def Result.thenDo (r : Result) (f : State → Result) : Result :=
  match r with
  | .next s => f s
  | .fault r => .fault r
  | .refused r => .refused r

/-- The HOST issues the words in order, with no other command between them. -/
def issueAll : List Word → State → Result
  | [], s => .next s
  | w :: ws, s => (issue w s).thenDo (issueAll ws)

/-- POLL (30_encoding.md R110): READ_CC; on a valid response TO_DMX of its two bytes; then the SET_VALUE word
`0x30000000 | RESP`. -/
def poll (s : State) : Result :=
  (issue 0x10000000#32 s).thenDo fun s1 =>
    if s1.resp.getLsbD 16 then
      (issue (wordB 0x20000000#32 (fieldHigh s1.resp) (fieldLow s1.resp)) s1).thenDo fun s2 =>
        issue (0x30000000#32 ||| s2.resp) s2
    else .next s1

/-- SET_STATIC_SCENE (30_encoding.md R111): the expansion's words for channel lists of bytes. -/
def setStaticSceneWords (reds greens blues : List Byte) (red green blue : Byte) : List Word :=
  reds.map (wordB 0x50000000#32 · red) ++ greens.map (wordB 0x50000000#32 · green) ++ blues.map (wordB 0x50000000#32 · blue)

/-- SET_STATIC_SCENE issued by the HOST. -/
def setStaticScene (reds greens blues : List Byte) (red green blue : Byte) (s : State) : Result :=
  issueAll (setStaticSceneWords reds greens blues red green blue) s

end Sys2Proof.Machine
end

