-- ==== Sys2Proof/Safety.lean ====
section
/-! DEFINITION. The terms the claims use: the invariants of 10_state.md R35 and R39, what a run of the block may rely on from the outside agents, and scene events written in plain numbers. -/

namespace Sys2Proof.Machine

/-! ### Invariants -/

/-- `SS_SIZE ≤ SS_CAP ≤ 128` with SS_CAP one of 16, 32, 64, 128 (10_state.md R39, first two clauses). -/
structure State.StoreBounds (s : State) : Prop where
  cap_legal : s.ssCap = 16 ∨ s.ssCap = 32 ∨ s.ssCap = 64 ∨ s.ssCap = 128
  size_le_cap : s.ssSize.toNat ≤ s.ssCap.toNat

/-- Every entry at or beyond SS_SIZE is DEFAULT (10_state.md R39, last clause). -/
def State.StoreVacant (s : State) : Prop := ∀ i, s.ssSize.toNat ≤ i → slotAt s.ssData i = .default

/-- DYN[i] is DEFAULT or `(1, i, x)` (10_state.md R35). -/
def State.DynIndexed (s : State) : Prop :=
  ∀ i, i < 128 → slotAt s.dyn i = .default ∨ slotAt s.dyn i = makeSlot (BitVec.ofNat 8 i) (slotAt s.dyn i).intensity

/-- Every unset slot of the static store is DEFAULT (10_state.md R45). -/
def State.StoreUnsetDefault (s : State) : Prop := ∀ i, (slotAt s.ssData i).set = false → slotAt s.ssData i = .default

/-- The invariant of the block between commands. -/
structure State.Inv (s : State) : Prop where
  /-- FILTER is 0xB0..0xBF (10_state.md R31). -/
  filter_legal : 0xB0 ≤ s.filter.toNat ∧ s.filter.toNat ≤ 0xBF
  /-- GAIN is 0..1024 (10_state.md R33). -/
  gain_legal : s.gain.toNat ≤ 1024
  /-- STATUS bits 31:2 are 0 (10_state.md R40). -/
  status_reserved : s.status.toNat < 4
  /-- 10_state.md R35. -/
  dyn_indexed : s.DynIndexed
  /-- 10_state.md R39. -/
  store_bounds : s.StoreBounds
  /-- 10_state.md R39. -/
  store_vacant : s.StoreVacant
  /-- 10_state.md R45. -/
  store_unset : s.StoreUnsetDefault
  /-- PSTATE is IDLE between commands (10_state.md R42). -/
  parser_idle : s.pstate = .idle

/-! ### The outside agents -/

/-- No arrival can fall into a command issued now: the next action is not SRC's. -/
def State.quiet (s : State) : Bool :=
  match s.timeline with
  | .arrive _ :: _ => false
  | _ => true

/-- The next action is the HOST's reset. -/
def State.resetNext (s : State) : Bool :=
  match s.timeline with
  | .reset _ :: _ => true
  | _ => false

/-- The instruction is a command of the command port: every row but MIDI_CC_FRAME (30_encoding.md R106). -/
def isCommand : Instr → Bool
  | .midiCcFrame _ _ _ => false
  | _ => true

/-- Between `s` and `t` SRC's next arrivals landed on RX and the block popped `popped` from its old end
(20_memory.md R78). -/
def RxMoves (s t : State) (popped : List Byte) : Prop :=
  ∃ arrivals : List (List Byte),
    s.timeline = arrivals.map PortAction.arrive ++ t.timeline ∧ s.rx ++ arrivals.flatten = popped ++ t.rx

/-! ### Scene events in plain numbers -/

/-- The event of each set slot of a scene, in walk order, at intensity 0. -/
def darkEvents (scene : List Slot) : List Event := (scene.filter (·.set)).map fun x => ⟨x.ch, 0⟩

/-- The event of each set slot of a scene, in walk order, at intensity `in * gain / 1024`. -/
def litEvents (gain : Nat) (scene : List Slot) : List Event :=
  (scene.filter (·.set)).map fun x => ⟨x.ch, BitVec.ofNat 8 (x.intensity.toNat * gain / 1024)⟩

/-- What the SINK holds for a channel after a history: the channel's last event (70_reset_and_hazards.md R321). -/
def lastOn (ch : BitVec 8) (out : List Event) : Option Byte :=
  (out.filter (·.ch == ch)).getLast?.map (·.intensity)

/-- Observation commands (20_memory.md R74). -/
def isQuery : Instr → Bool
  | .getGain | .getScene | .getFilter | .getStatus | .getDyn _ | .bvSize | .bvCapacity | .bvMaxSize | .bvEmpty => true
  | _ => false

end Sys2Proof.Machine
end

