-- ==== Sys2Proof/Certificates/Slice0/Obligations.lean ====
section
/-! DEFINITION. The statements for the provers, in the order of the spec's files: encoding, steps and the whole machine, the parser, conversion, the scene engine, the memory manager, queries, and the HOST's procedures. -/

open Sys2Proof Sys2Proof.Machine

/-! ### Encoding (30_encoding.md) -/

/-- Decoding what the encoder gives returns the instruction, for every instruction and operand (R101, R106, R108). -/
def Obligations.EncodeThenDecodeGivesInstruction : Prop :=
  ∀ i : Instr, decodeAction (encode i) = some i

/-- An action that decodes to an instruction is that instruction's encoding: each instruction has one word or frame. -/
def Obligations.DecodeThenEncodeGivesAction : Prop :=
  ∀ (a : PortAction) (i : Instr), decodeAction a = some i → encode i = a

/-- "the command rows do not overlap, so at most one matches" (R106). -/
def Obligations.CommandRowsNeverOverlap : Prop :=
  ∀ (w : Word) (j k : Nat) (hj : j < commandRows.length) (hk : k < commandRows.length),
    commandRows[j].selects w = true → commandRows[k].selects w = true → j = k

/-- A reserved word, from the field positions of R101 and the opcode maps of R104 and R105: OP 0x0 or 0xF, a query with
SEL 0x5..0xF, or a nonzero bit in a field that the word's format shows as 0. -/
def reservedWord (w : Word) : Prop :=
  match (w.extractLsb' 28 4).toNat with
  | 0x2 | 0x4 | 0x5 => w.extractLsb' 16 12 ≠ 0
  | 0x3 | 0x8 => w.extractLsb' 17 11 ≠ 0
  | 0x6 => w.extractLsb' 1 27 ≠ 0
  | 0xE => w.extractLsb' 7 21 ≠ 0
  | 0x7 =>
      match (w.extractLsb' 24 4).toNat with
      | 0 | 1 | 2 | 3 => w.extractLsb' 0 24 ≠ 0
      | 4 => w.extractLsb' 7 17 ≠ 0
      | _ => True
  | 0x1 | 0x9 | 0xA | 0xB | 0xC | 0xD => w.extractLsb' 0 28 ≠ 0
  | _ => True

/-- The illegal words are exactly the reserved ones (R106, R112). -/
def Obligations.IllegalWordsAreTheReservedOnes : Prop :=
  ∀ w : Word, decodeCommand w = none ↔ reservedWord w

/-- Words of the spec's tables (R109, 95_test_vectors.md) and the frame of 95_test_vectors.md E3 decode to the
instruction they stand for. -/
def Obligations.SpecWordsDecode : Prop :=
  decodeCommand 0x10000000#32 = some .readCc ∧
  decodeCommand 0x20001040#32 = some (.toDmx 0x10 0x40) ∧
  decodeCommand 0x30010332#32 = some (.setValue true 3 50) ∧
  decodeCommand 0x400003FC#32 = some (.setGain 1020) ∧
  decodeCommand 0x5000075A#32 = some (.staticAppend 7 90) ∧
  decodeCommand 0x60000001#32 = some (.switchScene true) ∧
  decodeCommand 0x73000000#32 = some .getStatus ∧
  decodeCommand 0x74000010#32 = some (.getDyn 16) ∧
  decodeCommand 0x8001C809#32 = some (.bvPush true 200 9) ∧
  decodeCommand 0xE0000002#32 = some (.bvRead 2) ∧
  decodeFrame [0xB4, 0x10, 0x40] = some (.midiCcFrame 4 0x10 0x40)

/-- The instruction each word of a line stands for, with the line's numbers as operands (R109, R111); for `.word w`
whatever the decoder reads from `w`. -/
def lineInstructions : AsmLine → List (Option Instr)
  | .readCc => [some .readCc]
  | .toDmx a b => [some (.toDmx (BitVec.ofNat 8 a) (BitVec.ofNat 8 b))]
  | .setValue c i => [some (.setValue true (BitVec.ofNat 8 c) (BitVec.ofNat 8 i))]
  | .setValueUnset => [some (.setValue false 0 0)]
  | .setGain g => [some (.setGain (BitVec.ofNat 16 g))]
  | .staticAppend c k => [some (.staticAppend (BitVec.ofNat 8 c) (BitVec.ofNat 8 k))]
  | .switchSceneStatic => [some (.switchScene false)]
  | .switchSceneDynamic => [some (.switchScene true)]
  | .getGain => [some .getGain]
  | .getScene => [some .getScene]
  | .getFilter => [some .getFilter]
  | .getStatus => [some .getStatus]
  | .getDyn x => [some (.getDyn (BitVec.ofNat 7 x))]
  | .bvPush c i => [some (.bvPush true (BitVec.ofNat 8 c) (BitVec.ofNat 8 i))]
  | .bvPushUnset => [some (.bvPush false 0 0)]
  | .bvPop => [some .bvPop]
  | .bvSize => [some .bvSize]
  | .bvCapacity => [some .bvCapacity]
  | .bvMaxSize => [some .bvMaxSize]
  | .bvEmpty => [some .bvEmpty]
  | .bvRead x => [some (.bvRead (BitVec.ofNat 7 x))]
  | .word w => [decodeCommand (BitVec.ofNat 32 w)]
  | .setStaticScene rs gs bs r g b =>
      (rs.map fun c => some (.staticAppend (BitVec.ofNat 8 c) (BitVec.ofNat 8 r))) ++
      (gs.map fun c => some (.staticAppend (BitVec.ofNat 8 c) (BitVec.ofNat 8 g))) ++
      (bs.map fun c => some (.staticAppend (BitVec.ofNat 8 c) (BitVec.ofNat 8 b)))

/-- A line with its operands in range assembles to words that decode to the line's instructions in order; "An operand
out of its range is refused by the assembler" (R109, R111). -/
def Obligations.AssembledLinesDecode : Prop :=
  ∀ line : AsmLine,
    (line.wellFormed = true → (assemble line).map (·.map decodeCommand) = some (lineInstructions line)) ∧
    (line.wellFormed = false → assemble line = none)

/-! ### Steps and the whole machine -/

/-- When the next action presents an instruction, a step is that instruction's execution with the action taken off the
timeline (the model's form of R76 and R100, log 1). -/
def Obligations.StepRunsDecodedInstruction : Prop :=
  ∀ (s : State) (a : PortAction) (rest : List PortAction) (i : Instr),
    s.timeline = a :: rest → decodeAction a = some i → step s = exec i { s with timeline := rest }

/-- R282: every word with OP 0x0 or 0xF, with OP 0x7 and SEL 0x5..0xF, or with a nonzero reserved bit sets STATUS[0],
writes RESP <- 0 and changes nothing else; RX is not read and nothing is emitted. The command port is the model's
timeline (log 1). -/
def Obligations.ReservedWordSetsStatusBitZero : Prop :=
  ∀ (s : State) (w : Word) (rest : List PortAction), s.timeline = .command w :: rest → reservedWord w →
    decodeCommand w = none ∧
      step s = .next { s with timeline := rest, status := s.status ||| 0x00000001#32, resp := 0x00000000#32 }

/-- R293: the block holds its state while the HOST issues nothing and nothing arrives (the empty timeline, log 9). -/
def Obligations.IdleBlockHoldsItsState : Prop :=
  ∀ s : State, s.timeline = [] → step s = .next s

/-- R78: an arrival between commands appends its bytes, frame or not, to the young end of RX in order, and changes
nothing else (log 2, log 3). -/
def Obligations.ArrivalAppendsItsBytesInOrder : Prop :=
  ∀ (s : State) (bytes : List Byte) (rest : List PortAction),
    s.timeline = .arrive bytes :: rest → step s = .next { s with timeline := rest, rx := s.rx ++ bytes }

/-- R310, R311, R313: reset puts every piece of state at its reset value, keeps RX and emits nothing; FILTER is
computed from the channel parameter. That a reset is an action of the timeline is the model's choice (log 6). -/
def Obligations.ResetSetsEveryResetValue : Prop :=
  ∀ (s : State) (p : Int) (rest : List PortAction), s.timeline = .reset p :: rest →
    ∃ t, step s = .next t ∧ t.filter = 0xB0#8 ||| (BitVec.ofNat 8 (min (max p 1) 16 - 1).toNat &&& 0x0F#8) ∧
      t.activeDyn = true ∧ t.gain.toNat = 1024 ∧ t.status = 0 ∧ t.resp = 0 ∧
      (∀ i, i < 128 → t.dyn[i]? = some ⟨false, 0, 0⟩ ∧ t.ssData[i]? = some ⟨false, 0, 0⟩) ∧
      t.ssSize.toNat = 0 ∧ t.ssCap.toNat = 16 ∧ t.pstate = .idle ∧ t.out = [] ∧ t.rx = s.rx ∧ t.timeline = rest

/-- Every step answers a next state: no action of the HOST or of SRC stops the block (R230, R280, R284); READ_CC's scan
ends and never reads the sentinel, whatever arrives (R191, R198: a timeline holds finitely many bytes, log 8). -/
def Obligations.EveryStepAnswersNextState : Prop :=
  ∀ s : State, ∃ t, step s = .next t

/-- The invariant (R31, R33, R35, R39, R40, R42, R45) is kept by every step from every state that meets it. -/
def Obligations.StepKeepsBlockInvariant : Prop :=
  ∀ s t : State, s.Inv → step s = .next t → t.Inv

/-- The invariant holds after reset, for every channel parameter and whatever RX holds. -/
def Obligations.ResetMeetsBlockInvariant : Prop :=
  State.reset.Inv ∧ ∀ (p : Int) (rx : List Byte), (State.resetWith p rx).Inv

/-- R49: each instruction writes only the state of its row: FILTER never; ACTIVE_DYN only SWITCH_SCENE; GAIN only
SET_GAIN; DYN only SET_VALUE; SS only STATIC_APPEND, BV_PUSH and BV_POP, SS_CAP not BV_POP; STATUS only BV_READ; RX only
READ_CC (and the arriving frame); OUT only SET_VALUE, SET_GAIN and SWITCH_SCENE; the timeline is the agents'. -/
def Obligations.InstructionsWriteOnlyTheirColumns : Prop :=
  ∀ (i : Instr) (s t : State), exec i s = .next t →
    t.filter = s.filter ∧
    (t.activeDyn = s.activeDyn ∨ ∃ d, i = .switchScene d) ∧
    (t.gain = s.gain ∨ ∃ g, i = .setGain g) ∧
    (t.dyn = s.dyn ∨ ∃ set c x, i = .setValue set c x) ∧
    ((t.ssData = s.ssData ∧ t.ssSize = s.ssSize) ∨ (∃ a b, i = .staticAppend a b) ∨ (∃ set c x, i = .bvPush set c x) ∨
      i = .bvPop) ∧
    (t.ssCap = s.ssCap ∨ (∃ a b, i = .staticAppend a b) ∨ (∃ set c x, i = .bvPush set c x)) ∧
    (t.status = s.status ∨ ∃ x, i = .bvRead x) ∧
    (t.pstate = s.pstate ∨ i = .readCc) ∧
    (t.rx = s.rx ∨ i = .readCc ∨ ∃ n c v, i = .midiCcFrame n c v) ∧
    (t.out = s.out ∨ (∃ set c x, i = .setValue set c x) ∨ (∃ g, i = .setGain g) ∨ (∃ d, i = .switchScene d)) ∧
    (t.timeline = s.timeline ∨ i = .readCc) ∧
    (t.resp = s.resp ∨ isCommand i = true)

/-- STATUS is sticky and records exactly the two faults of R281: until a reset, a step leaves it, sets bit 0 on an
illegal word, or sets bit 1 on a BV_READ at or beyond SS_SIZE. -/
def Obligations.StatusRecordsExactlyTwoFaults : Prop :=
  ∀ s t : State, s.resetNext = false → step s = .next t →
    (t.status = s.status ∧
      (∀ w rest, s.timeline = .command w :: rest → decodeCommand w ≠ none) ∧
      (∀ w rest x, s.timeline = .command w :: rest → decodeCommand w = some (.bvRead x) → x.toNat < s.ssSize.toNat)) ∨
    (t.status = s.status ||| 1 ∧ ∃ w rest, s.timeline = .command w :: rest ∧ decodeCommand w = none) ∨
    (t.status = s.status ||| 2 ∧ ∃ w rest x, s.timeline = .command w :: rest ∧ decodeCommand w = some (.bvRead x) ∧
      s.ssSize.toNat ≤ x.toNat)

/-- "Once `DYN[i].set = 1` it stays 1 until reset" (R35), and SS_CAP is lowered by no command (R38). -/
def Obligations.SetChannelsAndCapacityStay : Prop :=
  ∀ s t : State, s.resetNext = false → step s = .next t →
    (∀ i, (slotAt s.dyn i).set = true → (slotAt t.dyn i).set = true) ∧ s.ssCap.toNat ≤ t.ssCap.toNat

/-- R44, R323: until a reset, OUT only grows at its young end, and one step emits at most 256 events. -/
def Obligations.OutputHistoryOnlyGrows : Prop :=
  ∀ s t : State, s.resetNext = false → step s = .next t →
    ∃ events, t.out = s.out ++ events ∧ events.length ≤ 256

/-- An arrival between commands and a command other than READ_CC can be taken in either order: the same registers,
scenes, response and events, and the same RX in the end (R78, R49; log 2). -/
def Obligations.CommandsCommuteWithArrivals : Prop :=
  ∀ (i : Instr) (bytes : List Byte) (s t : State), isCommand i = true → i ≠ .readCc →
    exec i s = .next t → exec i { s with rx := s.rx ++ bytes } = .next { t with rx := t.rx ++ bytes }

/-- No command's effect depends on the fault record or on the last response: STATUS reaches only GET_STATUS's response,
and RESP nothing (R49, R284). -/
def Obligations.FaultRecordNeverInfluencesCommands : Prop :=
  ∀ (i : Instr) (s t : State) (status resp : Word), i ≠ .getStatus → exec i s = .next t →
    ∃ t', exec i { s with status := status, resp := resp } = .next t' ∧
      { t' with status := t.status, resp := t.resp } = t ∧ (isCommand i = true → t'.resp = t.resp)

/-! ### The receive stream and the parser (42_frame_parser.md) -/

/-- R190: at reset FILTER is `0xB0 | ((clamp(P_MIDI_CHANNEL, 1, 16) - 1) & 0x0F)`, which is 0xB0 below 1, 0xBF above 16 and
0xB0..0xBF for 1..16; no other step changes it. That a reset is an action of the timeline is the model's choice (log 6). -/
def Obligations.FilterComputedAtResetOnly : Prop :=
  ∀ s t : State, step s = .next t →
    (s.resetNext = false → t.filter = s.filter) ∧
    ∀ (p : Int) (rest : List PortAction), s.timeline = .reset p :: rest →
      t.filter = 0xB0#8 ||| (BitVec.ofNat 8 (min (max p 1) 16 - 1).toNat &&& 0x0F#8) ∧
      (p < 1 → t.filter = 0xB0#8) ∧ (16 < p → t.filter = 0xBF#8) ∧
      (1 ≤ p → p ≤ 16 → (t.filter.toNat : Int) = 0xB0 + (p - 1))

/-- R108: the frame of a MIDI channel is its three bytes in arrival order, status byte `1011nnnn` first; its arrival
changes RX only (the model's meaning of the row MIDI_CC_FRAME, log 3). -/
def Obligations.FrameArrivesOnReceiveStream : Prop :=
  ∀ (n : BitVec 4) (c v : BitVec 7) (s : State),
    exec (.midiCcFrame n c v) s =
      .next { s with rx := s.rx ++ [BitVec.ofNat 8 (0xB0 + n.toNat), BitVec.ofNat 8 c.toNat, BitVec.ofNat 8 v.toNat] }

/-- R108, R192: a frame that arrives on an empty stream is recovered by the next READ_CC exactly when its channel is
FILTER's; otherwise the three bytes are scanned past. -/
def Obligations.ReadCcRecoversArrivedFrame : Prop :=
  ∀ (n : BitVec 4) (c v : BitVec 7) (s : State), s.Inv → s.quiet = true → s.rx = [] →
    ∃ t, exec (.midiCcFrame n c v) s = .next t ∧
      exec .readCc t = .next { s with
        resp := if n = s.filter.extractLsb' 0 4 then BitVec.ofNat 32 (0x10000 + c.toNat * 256 + v.toNat) else 0#32 }

/-- R192: with no arrival meanwhile (`quiet`, log 2; one machine step, log 14), bytes before the sync byte are
discarded, the message's two data bytes are the response and the bytes after them stay. -/
def Obligations.ReadCcRecoversMessage : Prop :=
  ∀ (s : State) (skipped rest : List Byte) (d1 d2 : Byte), s.quiet = true →
    s.rx = skipped ++ s.filter :: d1 :: d2 :: rest → s.filter ∉ skipped → d1.toNat ≤ 127 → d2.toNat ≤ 127 →
    exec .readCc s = .next { s with
      resp := BitVec.ofNat 32 (0x10000 + d1.toNat * 256 + d2.toNat), rx := rest, pstate := .idle }

/-- R193: with no sync byte in the stream every byte is consumed and there is no message. -/
def Obligations.ReadCcScansPastEverything : Prop :=
  ∀ s : State, s.quiet = true → s.filter ∉ s.rx →
    exec .readCc s = .next { s with resp := 0x00000000#32, rx := [], pstate := .idle }

/-- R194: with fewer than two bytes after the sync byte the sync byte is gone, what follows it stays, and there is no
message. -/
def Obligations.ReadCcLosesEarlySync : Prop :=
  ∀ (s : State) (skipped tail : List Byte), s.quiet = true →
    s.rx = skipped ++ s.filter :: tail → s.filter ∉ skipped → tail.length < 2 →
    exec .readCc s = .next { s with resp := 0x00000000#32, rx := tail, pstate := .idle }

/-- R195: when either data byte has bit 7 set both are consumed and there is no message, even when one equals FILTER. -/
def Obligations.ReadCcDropsMalformedMessage : Prop :=
  ∀ (s : State) (skipped rest : List Byte) (d1 d2 : Byte), s.quiet = true →
    s.rx = skipped ++ s.filter :: d1 :: d2 :: rest → s.filter ∉ skipped → 128 ≤ d1.toNat ∨ 128 ≤ d2.toNat →
    exec .readCc s = .next { s with resp := 0x00000000#32, rx := rest, pstate := .idle }

/-- R78, R191: whatever arrives during a READ_CC, it completes; bytes are consumed from the old end only, in order, none
lost or duplicated; and nothing changes but RESP, RX, PSTATE (back to IDLE) and the arrivals taken
(log 2, log 8). -/
def Obligations.ReadCcKeepsStreamOrder : Prop :=
  ∀ s : State, ∃ t popped, exec .readCc s = .next t ∧ RxMoves s t popped ∧
    t = { s with resp := t.resp, rx := t.rx, timeline := t.timeline, pstate := .idle }

/-- R197, R107: whatever arrives, the response is `0x00000000` or RCC with `V = 1` and two data bytes. -/
def Obligations.ReadCcResponseIsNoneOrMessage : Prop :=
  ∀ s t : State, exec .readCc s = .next t →
    t.resp = 0#32 ∨ ∃ c v : BitVec 7, t.resp = BitVec.ofNat 32 (0x10000 + c.toNat * 256 + v.toNat)

/-- R78 (95_test_vectors.md P17): data bytes that arrive after the sync byte is popped and before the count of two is
taken complete the message (log 2). -/
def Obligations.ArrivalBeforeCountCompletesMessage : Prop :=
  ∀ (s : State) (c v : BitVec 7) (later : List PortAction), s.rx = [s.filter] →
    s.timeline = .arrive [] :: .arrive [] :: .arrive [c.setWidth 8, v.setWidth 8] :: later →
    ∃ t, exec .readCc s = .next t ∧ t.resp = BitVec.ofNat 32 (0x10000 + c.toNat * 256 + v.toNat) ∧
      ({ s with timeline := later }.quiet = true → t.rx = [])

/-- R78, R194 (95_test_vectors.md P18): the same bytes arriving after that count are too late; they stay for the next
READ_CC (log 2). -/
def Obligations.ArrivalAfterCountIsTooLate : Prop :=
  ∀ (s : State) (bytes : List Byte) (later : List PortAction), s.rx = [s.filter] →
    s.timeline = .arrive [] :: .arrive [] :: .arrive [] :: .arrive bytes :: later →
    exec .readCc s = .next { s with
      resp := 0#32, rx := [], pstate := .idle, timeline := .arrive bytes :: later }

/-! ### Conversion (41_dmx_slot.md) -/

/-- R171, R172, R173: the response is the set slot of channel min(A,127) and intensity 2*min(B,127), in any state, and
nothing but RESP changes. -/
def Obligations.ToDmxClampsAndDoubles : Prop :=
  (∀ w : Word, w &&& 0xFFFF0000#32 = 0x20000000#32 →
    decodeCommand w = some (.toDmx (w.extractLsb' 8 8) (w.extractLsb' 0 8))) ∧
  ∀ (a b : BitVec 8) (s : State), exec (.toDmx a b) s =
    .next { s with resp := BitVec.ofNat 32 (0x10000 + min a.toNat 127 * 256 + min b.toNat 127 * 2) }

/-! ### The scene engine (43_scene_engine.md) -/

/-- R220: at every legal gain the scaler is exact, never amplifies, is the identity at unity and 0 at
gain 0; below unity it can lose (1 at gain 1023 gives 0). -/
def Obligations.ScalerIsExactFixedPoint : Prop :=
  ∀ (gain : BitVec 11) (x : BitVec 8), gain.toNat ≤ 1024 →
    (scale gain x).toNat = x.toNat * gain.toNat / 1024 ∧ (scale gain x).toNat ≤ x.toNat ∧
    (gain.toNat = 1024 → scale gain x = x) ∧ (gain.toNat = 0 → scale gain x = 0) ∧ scale 1023 1 = 0

/-- R223: a set operand slot with a channel up to 127 is written to DYN[C] and emitted, scaled, exactly when it differs
from the stored slot and the dynamic scene is active; an unset operand slot (whatever its other bits) or a channel above
127 changes nothing; nothing else changes but RESP <- 0. -/
def Obligations.SetValueWritesAndEmitsChanges : Prop :=
  (∀ w : Word, w &&& 0xFFFE0000#32 = 0x30000000#32 →
    decodeCommand w = some (.setValue (w.getLsbD 16) (w.extractLsb' 8 8) (w.extractLsb' 0 8))) ∧
  (∀ (set : Bool) (c x : BitVec 8) (s : State), set = false ∨ 127 < c.toNat →
    exec (.setValue set c x) s = .next { s with resp := 0#32 }) ∧
  ∀ (c x : BitVec 8) (s : State) (hc : c.toNat < 128),
    exec (.setValue true c x) s = .next { s with
      dyn := s.dyn.set c.toNat ⟨true, c, x⟩ hc
      out := s.out ++
        if s.dyn[c.toNat]'hc ≠ ⟨true, c, x⟩ ∧ s.activeDyn = true then
          [⟨c, BitVec.ofNat 8 (x.toNat * s.gain.toNat / 1024)⟩]
        else []
      resp := 0#32 }

/-- The dedup (R223, 95_test_vectors.md E5): a second identical SET_VALUE changes nothing and emits nothing. -/
def Obligations.RepeatedSetValueIsSilent : Prop :=
  ∀ (set : Bool) (c x : BitVec 8) (s t : State),
    exec (.setValue set c x) s = .next t → exec (.setValue set c x) t = .next t

/-- R224: within 5 of the stored gain SET_GAIN changes nothing but RESP <- 0; outside it GAIN <- min(G, 1024) and every set
slot of the active scene is emitted, in walk order, at the new gain, and nothing else changes but RESP <- 0. -/
def Obligations.SetGainResendsOutsideDeadZone : Prop :=
  (∀ w : Word, w &&& 0xFFFF0000#32 = 0x40000000#32 → decodeCommand w = some (.setGain (w.extractLsb' 0 16))) ∧
  ∀ (g : BitVec 16) (s : State),
    (((g.toNat : Int) - s.gain.toNat).natAbs ≤ 5 → exec (.setGain g) s = .next { s with resp := 0#32 }) ∧
    (((g.toNat : Int) - s.gain.toNat).natAbs > 5 → exec (.setGain g) s = .next { s with
      gain := BitVec.ofNat 11 (min g.toNat 1024)
      out := s.out ++ litEvents (min g.toNat 1024)
        (if s.activeDyn = true then s.dyn.toList else s.ssData.toList.take s.ssSize.toNat)
      resp := 0#32 })

/-- R225 at unity gain: G of 1019..1029 does nothing; G of 1030 or more leaves GAIN at 1024 and still resends the active
scene, unscaled. -/
def Obligations.SetGainAtUnityCorners : Prop :=
  ∀ (g : BitVec 16) (s : State), s.gain.toNat = 1024 →
    (1019 ≤ g.toNat → g.toNat ≤ 1029 → exec (.setGain g) s = .next { s with resp := 0#32 }) ∧
    (1030 ≤ g.toNat → exec (.setGain g) s = .next { s with
      out := s.out ++ (s.activeScene.filter (·.set)).map fun x => ⟨x.ch, x.intensity⟩
      resp := 0#32 })

/-- R226 with R141: STATIC_APPEND skips a channel above 127; else it appends `(1, A, B)` unless the store holds 128
entries; it emits nothing and changes nothing else but RESP. -/
def Obligations.StaticAppendAppendsOrSkips : Prop :=
  (∀ w : Word, w &&& 0xFFFF0000#32 = 0x50000000#32 →
    decodeCommand w = some (.staticAppend (w.extractLsb' 8 8) (w.extractLsb' 0 8))) ∧
  ∀ (a b : BitVec 8) (s : State), s.StoreBounds →
    exec (.staticAppend a b) s = .next
      (if 127 < a.toNat ∨ s.ssSize.toNat = 128 then { s with resp := 0#32 }
       else { s with
         ssData := s.ssData.setIfInBounds s.ssSize.toNat ⟨true, a, b⟩
         ssSize := BitVec.ofNat 8 (s.ssSize.toNat + 1)
         ssCap := if s.ssSize = s.ssCap then BitVec.ofNat 8 (2 * s.ssCap.toNat) else s.ssCap
         resp := 0#32 })

/-- R227, R77: selecting the scene that is already active changes nothing but RESP <- 0; otherwise ACTIVE_DYN flips and the
old scene's whole blackout is emitted before the new scene's resend; nothing else changes but RESP <- 0. -/
def Obligations.SwitchSceneBlacksOutThenResends : Prop :=
  (∀ w : Word, w &&& 0xFFFFFFFE#32 = 0x60000000#32 → decodeCommand w = some (.switchScene (w.getLsbD 0))) ∧
  ∀ (d : Bool) (s : State),
    exec (.switchScene d) s = .next
      (if d = s.activeDyn then { s with resp := 0#32 }
       else { s with
         activeDyn := d
         out := s.out ++
           (if d = true then
             darkEvents (s.ssData.toList.take s.ssSize.toNat) ++ litEvents s.gain.toNat s.dyn.toList
            else darkEvents s.dyn.toList ++ litEvents s.gain.toNat (s.ssData.toList.take s.ssSize.toNat))
         resp := 0#32 })

/-- R227, R321: after a switch the SINK holds 0 on every channel that the old scene sets and the new one does not. -/
def Obligations.SwitchLeavesOldChannelsDark : Prop :=
  ∀ (d : Bool) (s t : State) (ch : BitVec 8), d ≠ s.activeDyn → exec (.switchScene d) s = .next t →
    (∃ x ∈ s.activeScene, x.set = true ∧ x.ch = ch) → (∀ x ∈ t.activeScene, x.set = true → x.ch ≠ ch) →
    lastOn ch t.out = some 0

/-- R231: after a resend of the static scene the SINK holds, for each channel, the scaled intensity of the channel's
last-entered set entry. -/
def Obligations.LastStaticEntryWins : Prop :=
  ∀ (s t : State) (before after : List Slot) (x : Slot), s.activeDyn = true →
    exec (.switchScene false) s = .next t → s.staticScene = before ++ x :: after → x.set = true →
    (∀ y ∈ after, y.set = true → y.ch ≠ x.ch) →
    lastOn x.ch t.out = some (BitVec.ofNat 8 (x.intensity.toNat * s.gain.toNat / 1024))

/-- R229: a SET_VALUE while the static scene is active emits nothing; the next SWITCH_SCENE DYNAMIC leaves the written
value, scaled, on its channel. -/
def Obligations.HiddenWritesAppearAtSwitch : Prop :=
  ∀ (c x : BitVec 8) (s t u : State), s.Inv → s.activeDyn = false → c.toNat ≤ 127 →
    exec (.setValue true c x) s = .next t → exec (.switchScene true) t = .next u →
    t.out = s.out ∧ lastOn c u.out = some (BitVec.ofNat 8 (x.toNat * s.gain.toNat / 1024))

/-! ### The memory manager (40_bounded_vector.md) -/

/-- R141, R142, R150: BV_PUSH appends `(1, C, I)` when S = 1 and DEFAULT when S = 0, with no channel filter, doubling a
full capacity below 128; at 128 entries the slot is silently dropped; it emits nothing and changes nothing else but
RESP. -/
def Obligations.BvPushAppendsGrowsOrDrops : Prop :=
  (∀ w : Word, w &&& 0xFFFE0000#32 = 0x80000000#32 →
    decodeCommand w = some (.bvPush (w.getLsbD 16) (w.extractLsb' 8 8) (w.extractLsb' 0 8))) ∧
  ∀ (set : Bool) (c x : BitVec 8) (s : State), s.StoreBounds →
    exec (.bvPush set c x) s = .next
      (if s.ssSize.toNat = 128 then { s with resp := 0#32 }
       else { s with
         ssData := s.ssData.setIfInBounds s.ssSize.toNat (if set = true then ⟨true, c, x⟩ else ⟨false, 0, 0⟩)
         ssSize := BitVec.ofNat 8 (s.ssSize.toNat + 1)
         ssCap := if s.ssSize = s.ssCap then BitVec.ofNat 8 (2 * s.ssCap.toNat) else s.ssCap
         resp := 0#32 })

/-- R143: BV_POP on an empty store changes nothing but RESP; otherwise the size drops by one and the vacated entry
becomes DEFAULT; SS_CAP stays and nothing is emitted. -/
def Obligations.BvPopRemovesLastEntry : Prop :=
  decodeCommand 0x90000000#32 = some .bvPop ∧
  ∀ s : State, exec .bvPop s = .next
    (if s.ssSize.toNat = 0 then { s with resp := 0#32 }
     else { s with
       ssSize := BitVec.ofNat 8 (s.ssSize.toNat - 1)
       ssData := s.ssData.setIfInBounds (s.ssSize.toNat - 1) ⟨false, 0, 0⟩
       resp := 0#32 })

/-- A pop undoes a push that was not dropped, but for the grown capacity (R141, R143, decision D19). -/
def Obligations.PopUndoesPush : Prop :=
  ∀ (set : Bool) (c x : BitVec 8) (s t u : State), s.Inv → s.ssSize.toNat < 128 →
    exec (.bvPush set c x) s = .next t → exec .bvPop t = .next u →
    u = { s with ssCap := t.ssCap, resp := 0#32 }

/-- R144 to R147: the counts, the ceiling and the empty test are the response; nothing else changes. -/
def Obligations.VectorCountsAreAnswered : Prop :=
  decodeCommand 0xA0000000#32 = some .bvSize ∧ decodeCommand 0xB0000000#32 = some .bvCapacity ∧
  decodeCommand 0xC0000000#32 = some .bvMaxSize ∧ decodeCommand 0xD0000000#32 = some .bvEmpty ∧
  ∀ s : State,
    exec .bvSize s = .next { s with resp := BitVec.ofNat 32 s.ssSize.toNat } ∧
    exec .bvCapacity s = .next { s with resp := BitVec.ofNat 32 s.ssCap.toNat } ∧
    exec .bvMaxSize s = .next { s with resp := 0x00000080#32 } ∧
    exec .bvEmpty s = .next { s with resp := if s.ssSize.toNat = 0 then 0x00000001#32 else 0x00000000#32 }

/-- R148, R283: below SS_SIZE, BV_READ answers the slot's `set`, `ch` and `in` at bits 16, 15:8 and 7:0 and changes nothing
else; at or beyond SS_SIZE it sets STATUS[1], writes RESP <- 0 and changes nothing else, and the block goes on. -/
def Obligations.BvReadAnswersSlotOrFaults : Prop :=
  (∀ w : Word, w &&& 0xFFFFFF80#32 = 0xE0000000#32 → decodeCommand w = some (.bvRead (w.extractLsb' 0 7))) ∧
  ∀ (x : BitVec 7) (s : State),
    (x.toNat < s.ssSize.toNat → ∃ t, exec (.bvRead x) s = .next t ∧ t = { s with resp := t.resp } ∧
      t.resp.extractLsb' 17 15 = 0 ∧ t.resp.getLsbD 16 = (slotAt s.ssData x.toNat).set ∧
      t.resp.extractLsb' 8 8 = (slotAt s.ssData x.toNat).ch ∧
      t.resp.extractLsb' 0 8 = (slotAt s.ssData x.toNat).intensity) ∧
    (s.ssSize.toNat ≤ x.toNat → exec (.bvRead x) s =
      .next { s with status := s.status ||| 0x00000002#32, resp := 0x00000000#32 })

/-- What BV_READ answers after a BV_PUSH of a set slot on a store with room is that slot (R141, R148). -/
def Obligations.ReadAfterPushAnswersPushedSlot : Prop :=
  ∀ (c x : BitVec 8) (k : BitVec 7) (s t : State), s.StoreBounds → s.ssSize.toNat = k.toNat →
    exec (.bvPush true c x) s = .next t →
    ∃ u, exec (.bvRead k) t = .next u ∧ u.resp = BitVec.ofNat 32 (0x10000 + c.toNat * 256 + x.toNat) ∧
      u.status = s.status

/-! ### Observation commands (44_query.md) -/

/-- R260 to R263: the register, zero-extended, is the response; nothing else changes. -/
def Obligations.GettersAnswerTheirRegister : Prop :=
  decodeCommand 0x70000000#32 = some .getGain ∧ decodeCommand 0x71000000#32 = some .getScene ∧
  decodeCommand 0x72000000#32 = some .getFilter ∧ decodeCommand 0x73000000#32 = some .getStatus ∧
  ∀ s : State,
    exec .getGain s = .next { s with resp := BitVec.ofNat 32 s.gain.toNat } ∧
    exec .getScene s = .next { s with resp := if s.activeDyn = true then 1#32 else 0#32 } ∧
    exec .getFilter s = .next { s with resp := BitVec.ofNat 32 s.filter.toNat } ∧
    exec .getStatus s = .next { s with resp := s.status }

/-- R264: GET_DYN answers DYN[X] for every X and changes nothing else; what a SET_VALUE wrote is read back. -/
def Obligations.GetDynReadsBackSetValue : Prop :=
  (∀ w : Word, w &&& 0xFFFFFF80#32 = 0x74000000#32 → decodeCommand w = some (.getDyn (w.extractLsb' 0 7))) ∧
  ∀ (k : BitVec 7) (s : State),
    (∃ t, exec (.getDyn k) s = .next t ∧ t = { s with resp := t.resp } ∧ t.resp.extractLsb' 17 15 = 0 ∧
      t.resp.getLsbD 16 = (slotAt s.dyn k.toNat).set ∧ t.resp.extractLsb' 8 8 = (slotAt s.dyn k.toNat).ch ∧
      t.resp.extractLsb' 0 8 = (slotAt s.dyn k.toNat).intensity) ∧
    ∀ (c x : BitVec 8) (t u : State), c.toNat ≤ 127 → exec (.setValue true c x) s = .next t →
      exec (.getDyn k) t = .next u →
      (k.toNat = c.toNat → u.resp = BitVec.ofNat 32 (0x10000 + c.toNat * 256 + x.toNat)) ∧
      (k.toNat ≠ c.toNat → exec (.getDyn k) s = .next { s with resp := u.resp })

/-- R74: repeating a query command leaves all state but RESP unchanged and is idempotent. -/
def Obligations.QueriesAreIdempotent : Prop :=
  ∀ (i : Instr) (s t : State), isQuery i = true ∨ (∃ x, i = .bvRead x ∧ x.toNat < s.ssSize.toNat) →
    exec i s = .next t → t = { s with resp := t.resp } ∧ exec i t = .next t

/-! ### The HOST's procedures (30_encoding.md R110, R111) -/

/-- R110: whatever arrives, POLL without a message (an exhausted scan, a lost sync, a malformed message: `RESP[16] = 0`,
R193 to R195, R197) ends after its READ_CC, and POLL with a message goes on as SET_VALUE of the message's DMX slot. With no
arrival next, the last two clauses say this from RX alone: a message in the stream, and no sync byte in it (log 12). -/
def Obligations.PollFeedsSceneEngine : Prop :=
  (∀ s t : State, exec .readCc s = .next t →
    (t.resp.getLsbD 16 = false → poll s = .next t) ∧
    ∀ c v : BitVec 7, t.resp = BitVec.ofNat 32 (0x10000 + c.toNat * 256 + v.toNat) →
      poll s = exec (.setValue true (c.setWidth 8) (BitVec.ofNat 8 (v.toNat * 2))) t) ∧
  ∀ (s : State) (skipped rest : List Byte), s.quiet = true → s.filter ∉ skipped →
    (∀ c v : BitVec 7, s.rx = skipped ++ s.filter :: c.setWidth 8 :: v.setWidth 8 :: rest →
      poll s = exec (.setValue true (c.setWidth 8) (BitVec.ofNat 8 (v.toNat * 2)))
        { s with rx := rest, pstate := .idle }) ∧
    (s.rx = skipped → poll s = .next { s with rx := [], pstate := .idle, resp := 0#32 })

/-- R111: SET_STATIC_SCENE appends, red list first, then green, then blue, each in list order, the entries whose channel
is at most 127, dropping what does not fit in 128 entries; it emits nothing and writes no other state but SS_CAP and
RESP (log 12). -/
def Obligations.SetStaticSceneAppendsLists : Prop :=
  ∀ (reds greens blues : List Byte) (r g b : Byte) (s : State), s.Inv →
    ∃ t, setStaticScene reds greens blues r g b s = .next t ∧
      t.staticScene = (s.staticScene ++
        ((reds.map (Slot.mk true · r) ++ greens.map (Slot.mk true · g) ++ blues.map (Slot.mk true · b)).filter
          fun x => decide (x.ch.toNat ≤ 127))).take 128 ∧
      t.Inv ∧
      { t with ssData := s.ssData, ssSize := s.ssSize, ssCap := s.ssCap, resp := s.resp } = s
end

