-- ==== Sys2Proof/Laws/Decode.lean ====
section
/-! SUPPORT. The decoder's rows, the encoder's words field by field, the frame's bits and the assembler's words. -/

namespace Sys2Proof

/-- The field widths leave no ill-formed instruction (30_encoding.md R101, R103). -/
theorem Laws.instr_wellFormed (i : Instr) : i.wellFormed = true := by
  have byte (x : BitVec 8) : isByteOperand x.toNat = true := decide_eq_true (by omega)
  have index (x : BitVec 7) : isIndexOperand x.toNat = true := decide_eq_true (by omega)
  cases i with
  | setGain g => exact decide_eq_true (by omega)
  | midiCcFrame n c v => simp [Instr.wellFormed, index]; omega
  | _ => simp [Instr.wellFormed, byte, index]

/-! ### Bits -/

theorem or_and_distrib {n : Nat} (x y m : BitVec n) : (x ||| y) &&& m = (x &&& m) ||| (y &&& m) := by
  ext i hi
  simp [Bool.and_or_distrib_right]

/-- A field at bit `lo` leaves no bit under a mask that is clear there. -/
theorem field_and_eq_zero {k : Nat} (a : BitVec k) (m : Word) (lo : Nat)
    (h : ∀ i, lo ≤ i → i < lo + k → m.getLsbD i = false) : (a.setWidth 32 <<< lo) &&& m = 0 := by
  ext i hi
  simp only [BitVec.getElem_and, BitVec.getElem_shiftLeft, BitVec.getElem_setWidth]
  by_cases h1 : i < lo
  · simp [h1]
  · by_cases h2 : i < lo + k
    · have := h i (by omega) h2
      rw [BitVec.getLsbD_eq_getElem hi] at this
      simp [this]
    · rw [BitVec.getLsbD_of_ge _ _ (by omega)]; simp

theorem field_and_eq_zero_low {k : Nat} (a : BitVec k) (m : Word) (h : ∀ i, i < k → m.getLsbD i = false) :
    a.setWidth 32 &&& m = 0 := by
  simpa using field_and_eq_zero a m 0 fun i _ hi => h i (by omega)

/-! ### Rows -/

/-- No word can be selected by both rows: their match values differ in a bit that both masks test. -/
def rowsClash (r q : CommandRow) : Bool := (r.value ^^^ q.value) &&& r.mask &&& q.mask != 0

theorem commandRows_clash : commandRows.Pairwise fun r q => rowsClash r q = true := by decide +kernel

theorem rowsClash_of_selects {r q : CommandRow} {w : Word} (h : r.selects w = true) (h' : q.selects w = true) :
    rowsClash r q = false := by
  simp only [CommandRow.selects, beq_iff_eq] at h h'
  simp only [rowsClash, ← h, ← h', bne_eq_false_iff_eq]
  ext i hi
  simp
  cases w[i] <;> cases r.mask[i] <;> cases q.mask[i] <;> simp

/-- A row that selects the word decides it. -/
theorem decode_row (k : Nat) (hk : k < commandRows.length) (w : Word) (h : commandRows[k].selects w = true) :
    decodeCommand w = some (commandRows[k].build w) := by
  have hf : commandRows.find? (·.selects w) = some commandRows[k] := by
    rw [List.find?_eq_some_iff_getElem]
    refine ⟨h, k, hk, rfl, fun j hj => ?_⟩
    by_contra hc
    have := List.pairwise_iff_getElem.1 commandRows_clash j k (by omega) hk hj
    rw [rowsClash_of_selects (by simpa using hc) h] at this
    cases this
  rw [decodeCommand, hf]
  rfl

/-- A decoded word was selected by a row, whose fields are the instruction. -/
theorem decode_some {w : Word} {i : Instr} (h : decodeCommand w = some i) :
    ∃ k, ∃ hk : k < commandRows.length, commandRows[k].selects w = true ∧ i = commandRows[k].build w := by
  unfold decodeCommand at h
  rw [Option.map_eq_some_iff] at h
  obtain ⟨r, hr, rfl⟩ := h
  rw [List.find?_eq_some_iff_getElem] at hr
  obtain ⟨h1, k, hk, rfl, -⟩ := hr
  exact ⟨k, hk, h1, rfl⟩

/-! ### Fields of the encoder's words -/

variable (op : Word)

theorem fieldHigh_wordB (a b : BitVec 8) (h : op &&& 0x0000FF00#32 = 0) : fieldHigh (wordB op a b) = a := by
  unfold fieldHigh wordB
  ext i hi
  have := congrArg (fun v => v[i+8]) h
  simp only [BitVec.getElem_and] at this
  interval_cases i <;> simp_all

theorem fieldLow_wordB (a b : BitVec 8) (h : op &&& 0x000000FF#32 = 0) : fieldLow (wordB op a b) = b := by
  unfold fieldLow wordB
  ext i hi
  have := congrArg (fun v => v[i]) h
  simp only [BitVec.getElem_and] at this
  interval_cases i <;> simp_all

theorem fieldHigh_wordS (s : Bool) (a b : BitVec 8) (h : op &&& 0x0000FF00#32 = 0) : fieldHigh (wordS op s a b) = a := by
  unfold fieldHigh wordS
  ext i hi
  have := congrArg (fun v => v[i+8]) h
  simp only [BitVec.getElem_and] at this
  interval_cases i <;> simp_all

theorem fieldLow_wordS (s : Bool) (a b : BitVec 8) (h : op &&& 0x000000FF#32 = 0) : fieldLow (wordS op s a b) = b := by
  unfold fieldLow wordS
  ext i hi
  have := congrArg (fun v => v[i]) h
  simp only [BitVec.getElem_and] at this
  interval_cases i <;> simp_all

theorem fieldSet_wordS (s : Bool) (a b : BitVec 8) (h : op.getLsbD 16 = false) : fieldSet (wordS op s a b) = s := by
  unfold fieldSet wordS
  simp_all

theorem fieldGain_wordG (g : BitVec 16) (h : op &&& 0x0000FFFF#32 = 0) : fieldGain (wordG op g) = g := by
  unfold fieldGain wordG
  ext i hi
  have := congrArg (fun v => v[i]) h
  simp only [BitVec.getElem_and] at this
  interval_cases i <;> simp_all

theorem fieldDynamic_wordF (d : Bool) (h : op.getLsbD 0 = false) : fieldDynamic (wordF op d) = d := by
  unfold fieldDynamic wordF
  simp_all

theorem fieldIndex_wordX (x : BitVec 7) (h : op &&& 0x0000007F#32 = 0) : fieldIndex (wordX op x) = x := by
  unfold fieldIndex wordX
  ext i hi
  have := congrArg (fun v => v[i]) h
  simp only [BitVec.getElem_and] at this
  interval_cases i <;> simp_all

/-! ### The encoder's words under a row's mask -/

theorem wordB_and (a b : BitVec 8) (m : Word) (h : ∀ i, i < 16 → m.getLsbD i = false) :
    wordB op a b &&& m = op &&& m := by
  rw [wordB, or_and_distrib, or_and_distrib, field_and_eq_zero a m 8 fun i _ _ => h i (by omega),
    field_and_eq_zero_low b m fun i _ => h i (by omega)]
  simp

theorem wordS_and (s : Bool) (a b : BitVec 8) (m : Word) (h : ∀ i, i < 17 → m.getLsbD i = false) :
    wordS op s a b &&& m = op &&& m := by
  rw [wordS, or_and_distrib, or_and_distrib, or_and_distrib, field_and_eq_zero a m 8 fun i _ _ => h i (by omega),
    field_and_eq_zero_low b m fun i _ => h i (by omega), field_and_eq_zero _ m 16 fun i _ _ => h i (by omega)]
  simp

theorem wordG_and (g : BitVec 16) (m : Word) (h : ∀ i, i < 16 → m.getLsbD i = false) :
    wordG op g &&& m = op &&& m := by
  rw [wordG, or_and_distrib, field_and_eq_zero_low g m h]
  simp

theorem wordF_and (d : Bool) (m : Word) (h : ∀ i, i < 1 → m.getLsbD i = false) : wordF op d &&& m = op &&& m := by
  rw [wordF, or_and_distrib, field_and_eq_zero_low _ m h]
  simp

theorem wordX_and (x : BitVec 7) (m : Word) (h : ∀ i, i < 7 → m.getLsbD i = false) : wordX op x &&& m = op &&& m := by
  rw [wordX, or_and_distrib, field_and_eq_zero_low x m h]
  simp

/-! ### A word from its fields -/

theorem wordB_fields (w : Word) (h : w &&& 0xFFFF0000#32 = op) : wordB op (fieldHigh w) (fieldLow w) = w := by
  subst h; unfold wordB fieldHigh fieldLow
  ext i hi
  interval_cases i <;> simp

theorem wordS_fields (w : Word) (h : w &&& 0xFFFE0000#32 = op) :
    wordS op (fieldSet w) (fieldHigh w) (fieldLow w) = w := by
  subst h; unfold wordS fieldHigh fieldLow fieldSet
  ext i hi
  interval_cases i <;> simp

theorem wordG_fields (w : Word) (h : w &&& 0xFFFF0000#32 = op) : wordG op (fieldGain w) = w := by
  subst h; unfold wordG fieldGain
  ext i hi
  interval_cases i <;> simp

theorem wordF_fields (w : Word) (h : w &&& 0xFFFFFFFE#32 = op) : wordF op (fieldDynamic w) = w := by
  subst h; unfold wordF fieldDynamic
  ext i hi
  interval_cases i <;> simp

theorem wordX_fields (w : Word) (h : w &&& 0xFFFFFF80#32 = op) : wordX op (fieldIndex w) = w := by
  subst h; unfold wordX fieldIndex
  ext i hi
  interval_cases i <;> simp

theorem word_of_full_mask (w : Word) (h : w &&& 0xFFFFFFFF#32 = op) : op = w := by
  subst h
  ext i hi
  interval_cases i <;> simp

/-- A test of the bits from `lo` up, in numbers. -/
theorem and_high_eq_iff (w v : Word) (lo : Nat) (hv : v &&& (BitVec.allOnes 32 <<< lo) = v) :
    w &&& (BitVec.allOnes 32 <<< lo) = v ↔ w.toNat / 2 ^ lo = v.toNat / 2 ^ lo := by
  rw [← Nat.shiftRight_eq_div_pow, ← Nat.shiftRight_eq_div_pow, ← BitVec.toNat_ushiftRight,
    ← BitVec.toNat_ushiftRight, BitVec.toNat_inj]
  constructor
  · rintro rfl
    ext i hi
    by_cases h : lo + i < 32
    · simp [h]
      intro _
      have : (4294967295#32)[i] = (BitVec.allOnes 32)[i] := rfl
      exact this.trans (BitVec.getElem_allOnes i hi)
    · simp [BitVec.getElem_ushiftRight, BitVec.getLsbD_of_ge _ (lo + i) (by omega : 32 ≤ lo + i)]
  · intro h
    rw [← hv]
    ext i hi
    have := congrArg (fun v => v.getLsbD (i - lo)) h
    simp at this ⊢
    by_cases h : i < lo
    · simp [h]
    · rw [show lo + (i - lo) = i by omega] at this
      simp [BitVec.getLsbD_eq_getElem hi] at this
      simp [this]

theorem selects_iff (r : CommandRow) (w : Word) (lo : Nat) (hm : r.mask = BitVec.allOnes 32 <<< lo)
    (hv : r.value &&& r.mask = r.value) : r.selects w = true ↔ w.toNat / 2 ^ lo = r.value.toNat / 2 ^ lo := by
  rw [CommandRow.selects, beq_iff_eq, hm]
  exact and_high_eq_iff w _ lo (by rw [← hm]; exact hv)

/-! ### The frame -/

theorem frameBits_encodeFrame (n : BitVec 4) (c v : BitVec 7) :
    frameBits (statusByte n) (c.setWidth 8) (v.setWidth 8) &&& 0xF08080#24 = 0xB00000#24 := by
  rw [frameBits, or_and_distrib, or_and_distrib]
  have h1 : ∀ n : BitVec 4, ((statusByte n).setWidth 24 <<< 16) &&& 0xF08080#24 = 0xB00000#24 := by decide +kernel
  have h2 : ∀ c : BitVec 7, ((c.setWidth 8).setWidth 24 <<< 8) &&& 0xF08080#24 = 0 := by decide +kernel
  have h3 : ∀ c : BitVec 7, (c.setWidth 8).setWidth 24 &&& 0xF08080#24 = 0 := by decide +kernel
  rw [h1, h2, h3]
  rfl

theorem statusByte_low (n : BitVec 4) : (statusByte n).extractLsb' 0 4 = n := by
  revert n; decide +kernel

theorem dataByte_low (c : BitVec 7) : (c.setWidth 8).extractLsb' 0 7 = c := by
  revert c; decide +kernel

/-- Bytes that match the frame's pattern are the frame of their fields. -/
theorem encodeFrame_fields (s c v : Byte) (h : frameBits s c v &&& 0xF08080#24 = 0xB00000#24) :
    encodeFrame (s.extractLsb' 0 4) (c.extractLsb' 0 7) (v.extractLsb' 0 7) = [s, c, v] := by
  rw [frameBits, or_and_distrib, or_and_distrib] at h
  have a1 : ∀ s : BitVec 8, (s.setWidth 24 <<< 16) &&& 0xF08080#24 = 0xB00000#24 →
      statusByte (s.extractLsb' 0 4) = s := by decide +kernel
  have a2 : ∀ c : BitVec 8, c.getLsbD 7 = false → (c.extractLsb' 0 7).setWidth 8 = c := by decide +kernel
  have b (i : Nat) (hi : i < 24) := congrArg (fun v => v.getLsbD i) h
  have hc : c.getLsbD 7 = false := by simpa using b 15 (by omega)
  have hv : v.getLsbD 7 = false := by simpa using b 7 (by omega)
  have hs : (s.setWidth 24 <<< 16) &&& 0xF08080#24 = 0xB00000#24 := by
    rw [← h]
    ext i hi
    have := b i hi
    by_cases h16 : i < 16
    · interval_cases i <;> simp_all
    · interval_cases i <;> simp at this ⊢
  simp [encodeFrame, a1 s hs, a2 c hc, a2 v hv]

/-! ### The assembler's words -/

theorem getLsbD_low_false (b : Nat) (hb : BitVec.ofNat 32 b &&& 0x0000FFFF#32 = 0) (i : Nat) (hi : i < 16) :
    (BitVec.ofNat 32 b).getLsbD i = false := by
  have := congrArg (fun v => v.getLsbD i) hb
  interval_cases i <;> simpa using this

theorem asmWord_eq_wordB (b c l : Nat) (hc : c ≤ 255) (hl : l ≤ 255) (hb : BitVec.ofNat 32 b &&& 0x0000FFFF#32 = 0) :
    asmWord b c l = wordB (BitVec.ofNat 32 b) (BitVec.ofNat 8 c) (BitVec.ofNat 8 l) := by
  have hbit := getLsbD_low_false b hb
  unfold wordB
  rw [← BitVec.add_eq_or_of_and_eq_zero, ← BitVec.add_eq_or_of_and_eq_zero]
  · apply BitVec.eq_of_toNat_eq
    simp [asmWord]; omega
  · rw [BitVec.and_comm]; exact field_and_eq_zero _ _ 8 fun i _ _ => hbit i (by omega)
  · rw [or_and_distrib, BitVec.and_comm, field_and_eq_zero_low (BitVec.ofNat 8 l) _ fun i _ => hbit i (by omega),
      field_and_eq_zero (BitVec.ofNat 8 c) _ 8 (by
        intro i h1 _; rw [BitVec.getLsbD_setWidth, BitVec.getLsbD_of_ge _ _ h1]; simp)]
    simp

theorem asmWord_eq_wordG (b g : Nat) (hg : g ≤ 65535) (hb : BitVec.ofNat 32 b &&& 0x0000FFFF#32 = 0) :
    asmWord b 0 g = wordG (BitVec.ofNat 32 b) (BitVec.ofNat 16 g) := by
  unfold wordG
  rw [← BitVec.add_eq_or_of_and_eq_zero]
  · apply BitVec.eq_of_toNat_eq
    simp [asmWord]; omega
  · rw [BitVec.and_comm]
    exact field_and_eq_zero_low _ _ (getLsbD_low_false b hb)

theorem asmWord_eq_wordX (b x : Nat) (hx : x ≤ 127) (hb : BitVec.ofNat 32 b &&& 0x0000FFFF#32 = 0) :
    asmWord b 0 x = wordX (BitVec.ofNat 32 b) (BitVec.ofNat 7 x) := by
  unfold wordX
  rw [← BitVec.add_eq_or_of_and_eq_zero]
  · apply BitVec.eq_of_toNat_eq
    simp [asmWord]; omega
  · rw [BitVec.and_comm]
    exact field_and_eq_zero_low _ _ fun i hi => getLsbD_low_false b hb i (by omega)

end Sys2Proof
end

