-- ==== Sys2Proof/Laws/State.lean ====
section
/-! SUPPORT. One lemma per field per named update of State, so that no later proof unfolds a record update. -/

namespace Sys2Proof.Machine

variable (s : State)

/-! ### State.respond -/

@[simp] theorem State.respond_filter (w : Word) : (s.respond w).filter = s.filter := rfl
@[simp] theorem State.respond_activeDyn (w : Word) : (s.respond w).activeDyn = s.activeDyn := rfl
@[simp] theorem State.respond_gain (w : Word) : (s.respond w).gain = s.gain := rfl
@[simp] theorem State.respond_status (w : Word) : (s.respond w).status = s.status := rfl
@[simp] theorem State.respond_resp (w : Word) : (s.respond w).resp = w := rfl
@[simp] theorem State.respond_dyn (w : Word) : (s.respond w).dyn = s.dyn := rfl
@[simp] theorem State.respond_ssData (w : Word) : (s.respond w).ssData = s.ssData := rfl
@[simp] theorem State.respond_ssSize (w : Word) : (s.respond w).ssSize = s.ssSize := rfl
@[simp] theorem State.respond_ssCap (w : Word) : (s.respond w).ssCap = s.ssCap := rfl
@[simp] theorem State.respond_pstate (w : Word) : (s.respond w).pstate = s.pstate := rfl
@[simp] theorem State.respond_rx (w : Word) : (s.respond w).rx = s.rx := rfl
@[simp] theorem State.respond_out (w : Word) : (s.respond w).out = s.out := rfl
@[simp] theorem State.respond_timeline (w : Word) : (s.respond w).timeline = s.timeline := rfl

/-! ### State.emitAll -/

@[simp] theorem State.emitAll_filter (es : List Event) : (s.emitAll es).filter = s.filter := rfl
@[simp] theorem State.emitAll_activeDyn (es : List Event) : (s.emitAll es).activeDyn = s.activeDyn := rfl
@[simp] theorem State.emitAll_gain (es : List Event) : (s.emitAll es).gain = s.gain := rfl
@[simp] theorem State.emitAll_status (es : List Event) : (s.emitAll es).status = s.status := rfl
@[simp] theorem State.emitAll_resp (es : List Event) : (s.emitAll es).resp = s.resp := rfl
@[simp] theorem State.emitAll_dyn (es : List Event) : (s.emitAll es).dyn = s.dyn := rfl
@[simp] theorem State.emitAll_ssData (es : List Event) : (s.emitAll es).ssData = s.ssData := rfl
@[simp] theorem State.emitAll_ssSize (es : List Event) : (s.emitAll es).ssSize = s.ssSize := rfl
@[simp] theorem State.emitAll_ssCap (es : List Event) : (s.emitAll es).ssCap = s.ssCap := rfl
@[simp] theorem State.emitAll_pstate (es : List Event) : (s.emitAll es).pstate = s.pstate := rfl
@[simp] theorem State.emitAll_rx (es : List Event) : (s.emitAll es).rx = s.rx := rfl
@[simp] theorem State.emitAll_out (es : List Event) : (s.emitAll es).out = s.out ++ es := rfl
@[simp] theorem State.emitAll_timeline (es : List Event) : (s.emitAll es).timeline = s.timeline := rfl

/-! ### State.raiseFault -/

@[simp] theorem State.raiseFault_filter (c : FaultCode) : (s.raiseFault c).filter = s.filter := rfl
@[simp] theorem State.raiseFault_activeDyn (c : FaultCode) : (s.raiseFault c).activeDyn = s.activeDyn := rfl
@[simp] theorem State.raiseFault_gain (c : FaultCode) : (s.raiseFault c).gain = s.gain := rfl
@[simp] theorem State.raiseFault_status (c : FaultCode) : (s.raiseFault c).status = s.status ||| statusBit c := rfl
@[simp] theorem State.raiseFault_resp (c : FaultCode) : (s.raiseFault c).resp = respNone := rfl
@[simp] theorem State.raiseFault_dyn (c : FaultCode) : (s.raiseFault c).dyn = s.dyn := rfl
@[simp] theorem State.raiseFault_ssData (c : FaultCode) : (s.raiseFault c).ssData = s.ssData := rfl
@[simp] theorem State.raiseFault_ssSize (c : FaultCode) : (s.raiseFault c).ssSize = s.ssSize := rfl
@[simp] theorem State.raiseFault_ssCap (c : FaultCode) : (s.raiseFault c).ssCap = s.ssCap := rfl
@[simp] theorem State.raiseFault_pstate (c : FaultCode) : (s.raiseFault c).pstate = s.pstate := rfl
@[simp] theorem State.raiseFault_rx (c : FaultCode) : (s.raiseFault c).rx = s.rx := rfl
@[simp] theorem State.raiseFault_out (c : FaultCode) : (s.raiseFault c).out = s.out := rfl
@[simp] theorem State.raiseFault_timeline (c : FaultCode) : (s.raiseFault c).timeline = s.timeline := rfl

/-! ### State.rxAppend -/

@[simp] theorem State.rxAppend_filter (bs : List Byte) : (s.rxAppend bs).filter = s.filter := rfl
@[simp] theorem State.rxAppend_activeDyn (bs : List Byte) : (s.rxAppend bs).activeDyn = s.activeDyn := rfl
@[simp] theorem State.rxAppend_gain (bs : List Byte) : (s.rxAppend bs).gain = s.gain := rfl
@[simp] theorem State.rxAppend_status (bs : List Byte) : (s.rxAppend bs).status = s.status := rfl
@[simp] theorem State.rxAppend_resp (bs : List Byte) : (s.rxAppend bs).resp = s.resp := rfl
@[simp] theorem State.rxAppend_dyn (bs : List Byte) : (s.rxAppend bs).dyn = s.dyn := rfl
@[simp] theorem State.rxAppend_ssData (bs : List Byte) : (s.rxAppend bs).ssData = s.ssData := rfl
@[simp] theorem State.rxAppend_ssSize (bs : List Byte) : (s.rxAppend bs).ssSize = s.ssSize := rfl
@[simp] theorem State.rxAppend_ssCap (bs : List Byte) : (s.rxAppend bs).ssCap = s.ssCap := rfl
@[simp] theorem State.rxAppend_pstate (bs : List Byte) : (s.rxAppend bs).pstate = s.pstate := rfl
@[simp] theorem State.rxAppend_rx (bs : List Byte) : (s.rxAppend bs).rx = s.rx ++ bs := rfl
@[simp] theorem State.rxAppend_out (bs : List Byte) : (s.rxAppend bs).out = s.out := rfl
@[simp] theorem State.rxAppend_timeline (bs : List Byte) : (s.rxAppend bs).timeline = s.timeline := rfl

/-! ### State.setDyn -/

@[simp] theorem State.setDyn_filter (i : Nat) (x : Slot) : (s.setDyn i x).filter = s.filter := rfl
@[simp] theorem State.setDyn_activeDyn (i : Nat) (x : Slot) : (s.setDyn i x).activeDyn = s.activeDyn := rfl
@[simp] theorem State.setDyn_gain (i : Nat) (x : Slot) : (s.setDyn i x).gain = s.gain := rfl
@[simp] theorem State.setDyn_status (i : Nat) (x : Slot) : (s.setDyn i x).status = s.status := rfl
@[simp] theorem State.setDyn_resp (i : Nat) (x : Slot) : (s.setDyn i x).resp = s.resp := rfl
@[simp] theorem State.setDyn_dyn (i : Nat) (x : Slot) : (s.setDyn i x).dyn = s.dyn.setIfInBounds i x := rfl
@[simp] theorem State.setDyn_ssData (i : Nat) (x : Slot) : (s.setDyn i x).ssData = s.ssData := rfl
@[simp] theorem State.setDyn_ssSize (i : Nat) (x : Slot) : (s.setDyn i x).ssSize = s.ssSize := rfl
@[simp] theorem State.setDyn_ssCap (i : Nat) (x : Slot) : (s.setDyn i x).ssCap = s.ssCap := rfl
@[simp] theorem State.setDyn_pstate (i : Nat) (x : Slot) : (s.setDyn i x).pstate = s.pstate := rfl
@[simp] theorem State.setDyn_rx (i : Nat) (x : Slot) : (s.setDyn i x).rx = s.rx := rfl
@[simp] theorem State.setDyn_out (i : Nat) (x : Slot) : (s.setDyn i x).out = s.out := rfl
@[simp] theorem State.setDyn_timeline (i : Nat) (x : Slot) : (s.setDyn i x).timeline = s.timeline := rfl

/-! ### State.setGainReg -/

@[simp] theorem State.setGainReg_filter (v : Nat) : (s.setGainReg v).filter = s.filter := rfl
@[simp] theorem State.setGainReg_activeDyn (v : Nat) : (s.setGainReg v).activeDyn = s.activeDyn := rfl
@[simp] theorem State.setGainReg_gain (v : Nat) : (s.setGainReg v).gain = BitVec.ofNat 11 v := rfl
@[simp] theorem State.setGainReg_status (v : Nat) : (s.setGainReg v).status = s.status := rfl
@[simp] theorem State.setGainReg_resp (v : Nat) : (s.setGainReg v).resp = s.resp := rfl
@[simp] theorem State.setGainReg_dyn (v : Nat) : (s.setGainReg v).dyn = s.dyn := rfl
@[simp] theorem State.setGainReg_ssData (v : Nat) : (s.setGainReg v).ssData = s.ssData := rfl
@[simp] theorem State.setGainReg_ssSize (v : Nat) : (s.setGainReg v).ssSize = s.ssSize := rfl
@[simp] theorem State.setGainReg_ssCap (v : Nat) : (s.setGainReg v).ssCap = s.ssCap := rfl
@[simp] theorem State.setGainReg_pstate (v : Nat) : (s.setGainReg v).pstate = s.pstate := rfl
@[simp] theorem State.setGainReg_rx (v : Nat) : (s.setGainReg v).rx = s.rx := rfl
@[simp] theorem State.setGainReg_out (v : Nat) : (s.setGainReg v).out = s.out := rfl
@[simp] theorem State.setGainReg_timeline (v : Nat) : (s.setGainReg v).timeline = s.timeline := rfl

/-! ### State.setActive -/

@[simp] theorem State.setActive_filter (d : Bool) : (s.setActive d).filter = s.filter := rfl
@[simp] theorem State.setActive_activeDyn (d : Bool) : (s.setActive d).activeDyn = d := rfl
@[simp] theorem State.setActive_gain (d : Bool) : (s.setActive d).gain = s.gain := rfl
@[simp] theorem State.setActive_status (d : Bool) : (s.setActive d).status = s.status := rfl
@[simp] theorem State.setActive_resp (d : Bool) : (s.setActive d).resp = s.resp := rfl
@[simp] theorem State.setActive_dyn (d : Bool) : (s.setActive d).dyn = s.dyn := rfl
@[simp] theorem State.setActive_ssData (d : Bool) : (s.setActive d).ssData = s.ssData := rfl
@[simp] theorem State.setActive_ssSize (d : Bool) : (s.setActive d).ssSize = s.ssSize := rfl
@[simp] theorem State.setActive_ssCap (d : Bool) : (s.setActive d).ssCap = s.ssCap := rfl
@[simp] theorem State.setActive_pstate (d : Bool) : (s.setActive d).pstate = s.pstate := rfl
@[simp] theorem State.setActive_rx (d : Bool) : (s.setActive d).rx = s.rx := rfl
@[simp] theorem State.setActive_out (d : Bool) : (s.setActive d).out = s.out := rfl
@[simp] theorem State.setActive_timeline (d : Bool) : (s.setActive d).timeline = s.timeline := rfl

/-! ### State.blackout -/

@[simp] theorem State.blackout_filter (sc : List Slot) : (s.blackout sc).filter = s.filter := rfl
@[simp] theorem State.blackout_activeDyn (sc : List Slot) : (s.blackout sc).activeDyn = s.activeDyn := rfl
@[simp] theorem State.blackout_gain (sc : List Slot) : (s.blackout sc).gain = s.gain := rfl
@[simp] theorem State.blackout_status (sc : List Slot) : (s.blackout sc).status = s.status := rfl
@[simp] theorem State.blackout_resp (sc : List Slot) : (s.blackout sc).resp = s.resp := rfl
@[simp] theorem State.blackout_dyn (sc : List Slot) : (s.blackout sc).dyn = s.dyn := rfl
@[simp] theorem State.blackout_ssData (sc : List Slot) : (s.blackout sc).ssData = s.ssData := rfl
@[simp] theorem State.blackout_ssSize (sc : List Slot) : (s.blackout sc).ssSize = s.ssSize := rfl
@[simp] theorem State.blackout_ssCap (sc : List Slot) : (s.blackout sc).ssCap = s.ssCap := rfl
@[simp] theorem State.blackout_pstate (sc : List Slot) : (s.blackout sc).pstate = s.pstate := rfl
@[simp] theorem State.blackout_rx (sc : List Slot) : (s.blackout sc).rx = s.rx := rfl
@[simp] theorem State.blackout_out (sc : List Slot) : (s.blackout sc).out = s.out ++ blackoutEvents sc := rfl
@[simp] theorem State.blackout_timeline (sc : List Slot) : (s.blackout sc).timeline = s.timeline := rfl

/-! ### State.resend -/

@[simp] theorem State.resend_filter (sc : List Slot) : (s.resend sc).filter = s.filter := rfl
@[simp] theorem State.resend_activeDyn (sc : List Slot) : (s.resend sc).activeDyn = s.activeDyn := rfl
@[simp] theorem State.resend_gain (sc : List Slot) : (s.resend sc).gain = s.gain := rfl
@[simp] theorem State.resend_status (sc : List Slot) : (s.resend sc).status = s.status := rfl
@[simp] theorem State.resend_resp (sc : List Slot) : (s.resend sc).resp = s.resp := rfl
@[simp] theorem State.resend_dyn (sc : List Slot) : (s.resend sc).dyn = s.dyn := rfl
@[simp] theorem State.resend_ssData (sc : List Slot) : (s.resend sc).ssData = s.ssData := rfl
@[simp] theorem State.resend_ssSize (sc : List Slot) : (s.resend sc).ssSize = s.ssSize := rfl
@[simp] theorem State.resend_ssCap (sc : List Slot) : (s.resend sc).ssCap = s.ssCap := rfl
@[simp] theorem State.resend_pstate (sc : List Slot) : (s.resend sc).pstate = s.pstate := rfl
@[simp] theorem State.resend_rx (sc : List Slot) : (s.resend sc).rx = s.rx := rfl
@[simp] theorem State.resend_out (sc : List Slot) : (s.resend sc).out = s.out ++ resendEvents s.gain sc := rfl
@[simp] theorem State.resend_timeline (sc : List Slot) : (s.resend sc).timeline = s.timeline := rfl

/-! ### State.noMessage -/

@[simp] theorem State.noMessage_filter : s.noMessage.filter = s.filter := rfl
@[simp] theorem State.noMessage_activeDyn : s.noMessage.activeDyn = s.activeDyn := rfl
@[simp] theorem State.noMessage_gain : s.noMessage.gain = s.gain := rfl
@[simp] theorem State.noMessage_status : s.noMessage.status = s.status := rfl
@[simp] theorem State.noMessage_resp : s.noMessage.resp = respNone := rfl
@[simp] theorem State.noMessage_dyn : s.noMessage.dyn = s.dyn := rfl
@[simp] theorem State.noMessage_ssData : s.noMessage.ssData = s.ssData := rfl
@[simp] theorem State.noMessage_ssSize : s.noMessage.ssSize = s.ssSize := rfl
@[simp] theorem State.noMessage_ssCap : s.noMessage.ssCap = s.ssCap := rfl
@[simp] theorem State.noMessage_pstate : s.noMessage.pstate = .idle := rfl
@[simp] theorem State.noMessage_rx : s.noMessage.rx = s.rx := rfl
@[simp] theorem State.noMessage_out : s.noMessage.out = s.out := rfl
@[simp] theorem State.noMessage_timeline : s.noMessage.timeline = s.timeline := rfl

/-! ### State.bvGrow: the fields it never changes -/

@[simp] theorem State.bvGrow_filter : s.bvGrow.filter = s.filter := by unfold State.bvGrow; split <;> rfl
@[simp] theorem State.bvGrow_activeDyn : s.bvGrow.activeDyn = s.activeDyn := by unfold State.bvGrow; split <;> rfl
@[simp] theorem State.bvGrow_gain : s.bvGrow.gain = s.gain := by unfold State.bvGrow; split <;> rfl
@[simp] theorem State.bvGrow_status : s.bvGrow.status = s.status := by unfold State.bvGrow; split <;> rfl
@[simp] theorem State.bvGrow_resp : s.bvGrow.resp = s.resp := by unfold State.bvGrow; split <;> rfl
@[simp] theorem State.bvGrow_dyn : s.bvGrow.dyn = s.dyn := by unfold State.bvGrow; split <;> rfl
@[simp] theorem State.bvGrow_ssData : s.bvGrow.ssData = s.ssData := by unfold State.bvGrow; split <;> rfl
@[simp] theorem State.bvGrow_ssSize : s.bvGrow.ssSize = s.ssSize := by unfold State.bvGrow; split <;> rfl
@[simp] theorem State.bvGrow_pstate : s.bvGrow.pstate = s.pstate := by unfold State.bvGrow; split <;> rfl
@[simp] theorem State.bvGrow_rx : s.bvGrow.rx = s.rx := by unfold State.bvGrow; split <;> rfl
@[simp] theorem State.bvGrow_out : s.bvGrow.out = s.out := by unfold State.bvGrow; split <;> rfl
@[simp] theorem State.bvGrow_timeline : s.bvGrow.timeline = s.timeline := by unfold State.bvGrow; split <;> rfl

/-! ### State.bvStore: the fields it never changes -/

@[simp] theorem State.bvStore_filter (v : Slot) : (s.bvStore v).filter = s.filter := by unfold State.bvStore; split <;> rfl
@[simp] theorem State.bvStore_activeDyn (v : Slot) : (s.bvStore v).activeDyn = s.activeDyn := by unfold State.bvStore; split <;> rfl
@[simp] theorem State.bvStore_gain (v : Slot) : (s.bvStore v).gain = s.gain := by unfold State.bvStore; split <;> rfl
@[simp] theorem State.bvStore_status (v : Slot) : (s.bvStore v).status = s.status := by unfold State.bvStore; split <;> rfl
@[simp] theorem State.bvStore_resp (v : Slot) : (s.bvStore v).resp = s.resp := by unfold State.bvStore; split <;> rfl
@[simp] theorem State.bvStore_dyn (v : Slot) : (s.bvStore v).dyn = s.dyn := by unfold State.bvStore; split <;> rfl
@[simp] theorem State.bvStore_ssCap (v : Slot) : (s.bvStore v).ssCap = s.ssCap := by unfold State.bvStore; split <;> rfl
@[simp] theorem State.bvStore_pstate (v : Slot) : (s.bvStore v).pstate = s.pstate := by unfold State.bvStore; split <;> rfl
@[simp] theorem State.bvStore_rx (v : Slot) : (s.bvStore v).rx = s.rx := by unfold State.bvStore; split <;> rfl
@[simp] theorem State.bvStore_out (v : Slot) : (s.bvStore v).out = s.out := by unfold State.bvStore; split <;> rfl
@[simp] theorem State.bvStore_timeline (v : Slot) : (s.bvStore v).timeline = s.timeline := by unfold State.bvStore; split <;> rfl

/-! ### State.bvPush: the fields it never changes -/

@[simp] theorem State.bvPush_filter (v : Slot) : (s.bvPush v).filter = s.filter := by simp [State.bvPush]
@[simp] theorem State.bvPush_activeDyn (v : Slot) : (s.bvPush v).activeDyn = s.activeDyn := by simp [State.bvPush]
@[simp] theorem State.bvPush_gain (v : Slot) : (s.bvPush v).gain = s.gain := by simp [State.bvPush]
@[simp] theorem State.bvPush_status (v : Slot) : (s.bvPush v).status = s.status := by simp [State.bvPush]
@[simp] theorem State.bvPush_resp (v : Slot) : (s.bvPush v).resp = s.resp := by simp [State.bvPush]
@[simp] theorem State.bvPush_dyn (v : Slot) : (s.bvPush v).dyn = s.dyn := by simp [State.bvPush]
@[simp] theorem State.bvPush_pstate (v : Slot) : (s.bvPush v).pstate = s.pstate := by simp [State.bvPush]
@[simp] theorem State.bvPush_rx (v : Slot) : (s.bvPush v).rx = s.rx := by simp [State.bvPush]
@[simp] theorem State.bvPush_out (v : Slot) : (s.bvPush v).out = s.out := by simp [State.bvPush]
@[simp] theorem State.bvPush_timeline (v : Slot) : (s.bvPush v).timeline = s.timeline := by simp [State.bvPush]

/-! ### State.bvPop: the fields it never changes -/

@[simp] theorem State.bvPop_filter : s.bvPop.filter = s.filter := by unfold State.bvPop; split <;> rfl
@[simp] theorem State.bvPop_activeDyn : s.bvPop.activeDyn = s.activeDyn := by unfold State.bvPop; split <;> rfl
@[simp] theorem State.bvPop_gain : s.bvPop.gain = s.gain := by unfold State.bvPop; split <;> rfl
@[simp] theorem State.bvPop_status : s.bvPop.status = s.status := by unfold State.bvPop; split <;> rfl
@[simp] theorem State.bvPop_resp : s.bvPop.resp = s.resp := by unfold State.bvPop; split <;> rfl
@[simp] theorem State.bvPop_dyn : s.bvPop.dyn = s.dyn := by unfold State.bvPop; split <;> rfl
@[simp] theorem State.bvPop_ssCap : s.bvPop.ssCap = s.ssCap := by unfold State.bvPop; split <;> rfl
@[simp] theorem State.bvPop_pstate : s.bvPop.pstate = s.pstate := by unfold State.bvPop; split <;> rfl
@[simp] theorem State.bvPop_rx : s.bvPop.rx = s.rx := by unfold State.bvPop; split <;> rfl
@[simp] theorem State.bvPop_out : s.bvPop.out = s.out := by unfold State.bvPop; split <;> rfl
@[simp] theorem State.bvPop_timeline : s.bvPop.timeline = s.timeline := by unfold State.bvPop; split <;> rfl

/-! ### State.deliver: the fields it never changes -/

@[simp] theorem State.deliver_filter : s.deliver.filter = s.filter := by unfold State.deliver; split <;> rfl
@[simp] theorem State.deliver_activeDyn : s.deliver.activeDyn = s.activeDyn := by unfold State.deliver; split <;> rfl
@[simp] theorem State.deliver_gain : s.deliver.gain = s.gain := by unfold State.deliver; split <;> rfl
@[simp] theorem State.deliver_status : s.deliver.status = s.status := by unfold State.deliver; split <;> rfl
@[simp] theorem State.deliver_resp : s.deliver.resp = s.resp := by unfold State.deliver; split <;> rfl
@[simp] theorem State.deliver_dyn : s.deliver.dyn = s.dyn := by unfold State.deliver; split <;> rfl
@[simp] theorem State.deliver_ssData : s.deliver.ssData = s.ssData := by unfold State.deliver; split <;> rfl
@[simp] theorem State.deliver_ssSize : s.deliver.ssSize = s.ssSize := by unfold State.deliver; split <;> rfl
@[simp] theorem State.deliver_ssCap : s.deliver.ssCap = s.ssCap := by unfold State.deliver; split <;> rfl
@[simp] theorem State.deliver_pstate : s.deliver.pstate = s.pstate := by unfold State.deliver; split <;> rfl
@[simp] theorem State.deliver_out : s.deliver.out = s.out := by unfold State.deliver; split <;> rfl

/-! ### State.setValue: the fields it never changes -/

@[simp] theorem State.setValue_filter (x : Slot) : (s.setValue x).filter = s.filter := by unfold State.setValue; split <;> rfl
@[simp] theorem State.setValue_activeDyn (x : Slot) : (s.setValue x).activeDyn = s.activeDyn := by unfold State.setValue; split <;> rfl
@[simp] theorem State.setValue_gain (x : Slot) : (s.setValue x).gain = s.gain := by unfold State.setValue; split <;> rfl
@[simp] theorem State.setValue_status (x : Slot) : (s.setValue x).status = s.status := by unfold State.setValue; split <;> rfl
@[simp] theorem State.setValue_resp (x : Slot) : (s.setValue x).resp = s.resp := by unfold State.setValue; split <;> rfl
@[simp] theorem State.setValue_ssData (x : Slot) : (s.setValue x).ssData = s.ssData := by unfold State.setValue; split <;> rfl
@[simp] theorem State.setValue_ssSize (x : Slot) : (s.setValue x).ssSize = s.ssSize := by unfold State.setValue; split <;> rfl
@[simp] theorem State.setValue_ssCap (x : Slot) : (s.setValue x).ssCap = s.ssCap := by unfold State.setValue; split <;> rfl
@[simp] theorem State.setValue_pstate (x : Slot) : (s.setValue x).pstate = s.pstate := by unfold State.setValue; split <;> rfl
@[simp] theorem State.setValue_rx (x : Slot) : (s.setValue x).rx = s.rx := by unfold State.setValue; split <;> rfl
@[simp] theorem State.setValue_timeline (x : Slot) : (s.setValue x).timeline = s.timeline := by unfold State.setValue; split <;> rfl

/-! ### State.harvested: the fields it never changes -/

@[simp] theorem State.harvested_filter (d1 d2 : Byte) : (s.harvested d1 d2).filter = s.filter := by unfold State.harvested; split <;> rfl
@[simp] theorem State.harvested_activeDyn (d1 d2 : Byte) : (s.harvested d1 d2).activeDyn = s.activeDyn := by unfold State.harvested; split <;> rfl
@[simp] theorem State.harvested_gain (d1 d2 : Byte) : (s.harvested d1 d2).gain = s.gain := by unfold State.harvested; split <;> rfl
@[simp] theorem State.harvested_status (d1 d2 : Byte) : (s.harvested d1 d2).status = s.status := by unfold State.harvested; split <;> rfl
@[simp] theorem State.harvested_dyn (d1 d2 : Byte) : (s.harvested d1 d2).dyn = s.dyn := by unfold State.harvested; split <;> rfl
@[simp] theorem State.harvested_ssData (d1 d2 : Byte) : (s.harvested d1 d2).ssData = s.ssData := by unfold State.harvested; split <;> rfl
@[simp] theorem State.harvested_ssSize (d1 d2 : Byte) : (s.harvested d1 d2).ssSize = s.ssSize := by unfold State.harvested; split <;> rfl
@[simp] theorem State.harvested_ssCap (d1 d2 : Byte) : (s.harvested d1 d2).ssCap = s.ssCap := by unfold State.harvested; split <;> rfl
@[simp] theorem State.harvested_rx (d1 d2 : Byte) : (s.harvested d1 d2).rx = s.rx := by unfold State.harvested; split <;> rfl
@[simp] theorem State.harvested_out (d1 d2 : Byte) : (s.harvested d1 d2).out = s.out := by unfold State.harvested; split <;> rfl
@[simp] theorem State.harvested_timeline (d1 d2 : Byte) : (s.harvested d1 d2).timeline = s.timeline := by unfold State.harvested; split <;> rfl

/-! ### Reset -/

@[simp] theorem State.applyReset_rx (p : Int) : (s.applyReset p).rx = s.rx := rfl
@[simp] theorem State.applyReset_timeline (p : Int) : (s.applyReset p).timeline = s.timeline := rfl
@[simp] theorem State.applyReset_filter (p : Int) : (s.applyReset p).filter = syncFilter p := rfl
@[simp] theorem State.applyReset_status (p : Int) : (s.applyReset p).status = 0 := rfl
@[simp] theorem State.applyReset_out (p : Int) : (s.applyReset p).out = [] := rfl

end Sys2Proof.Machine
end

