-- ==== Sys2Proof/Laws/Scene.lean ====
section
/-! SUPPORT. Small lemmas of the scene arrays, the scaler, the walks and the static-scene store. -/

namespace Sys2Proof.Machine

variable {s t : State}

/-! ### Scene arrays -/

theorem slotAt_of_lt {v : Vector Slot 128} {i : Nat} (h : i < 128) : slotAt v i = v[i] := by
  simp [slotAt, h]

theorem slotAt_of_ge {v : Vector Slot 128} {i : Nat} (h : 128 ≤ i) : slotAt v i = .default := by
  simp [slotAt, h]

theorem slotAt_write_same {v : Vector Slot 128} {i : Nat} {x : Slot} (h : i < 128) :
    slotAt (v.setIfInBounds i x) i = x := by
  rw [slotAt_of_lt h]
  simp

theorem slotAt_write_other {v : Vector Slot 128} {i j : Nat} {x : Slot} (h : i ≠ j) :
    slotAt (v.setIfInBounds i x) j = slotAt v j := by
  by_cases hj : j < 128
  · rw [slotAt_of_lt hj, slotAt_of_lt hj, Vector.getElem_setIfInBounds_ne hj h]
  · rw [slotAt_of_ge (by omega), slotAt_of_ge (by omega)]

/-- Two scene arrays with the same entries are equal. -/
theorem scene_ext {v w : Vector Slot 128} (h : ∀ i, i < 128 → slotAt v i = slotAt w i) : v = w := by
  apply Vector.ext
  intro i hi
  have := h i hi
  rwa [slotAt_of_lt hi, slotAt_of_lt hi] at this

theorem slotAt_replicate (x : Slot) (i : Nat) : slotAt (Vector.replicate 128 x) i = if i < 128 then x else .default := by
  split
  · rename_i h; rw [slotAt_of_lt h]; simp
  · rw [slotAt_of_ge (by omega)]

theorem slotEq_iff (a b : Slot) : slotEq a b = true ↔ a = b := by
  cases a; cases b
  simp [slotEq, and_assoc]

theorem channelAccepted_iff (ch : BitVec 8) : channelAccepted ch = true ↔ ch.toNat ≤ 127 := decide_eq_true_iff

/-- The dead-zone test without a difference (43_scene_engine.md R225). -/
theorem outsideDeadZone_iff (g : BitVec 16) (gain : BitVec 11) :
    outsideDeadZone g gain = true ↔ g.toNat > gain.toNat + 5 ∨ gain.toNat > g.toNat + 5 := by
  unfold outsideDeadZone Config.deadZone
  rw [decide_eq_true_iff]
  omega

/-! ### The scaler and the walks -/

theorem scale_eq (gain : BitVec 11) (x : BitVec 8) : scale gain x = BitVec.ofNat 8 (x.toNat * gain.toNat / 1024) := by
  rw [scale, Nat.shiftRight_eq_div_pow]
  rfl

theorem resendEvents_eq (gain : BitVec 11) (scene : List Slot) : resendEvents gain scene = litEvents gain.toNat scene := by
  simp only [resendEvents, litEvents, scale_eq]
  rfl

theorem blackoutEvents_eq (scene : List Slot) : blackoutEvents scene = darkEvents scene := rfl

theorem litEvents_length (gain : Nat) (scene : List Slot) : (litEvents gain scene).length ≤ scene.length := by
  rw [litEvents, List.length_map]
  exact List.length_filter_le ..

theorem darkEvents_length (scene : List Slot) : (darkEvents scene).length ≤ scene.length := by
  rw [darkEvents, List.length_map]
  exact List.length_filter_le ..

theorem dynScene_length (s : State) : s.dynScene.length = 128 := by simp [State.dynScene]

theorem staticScene_length_le (s : State) : s.staticScene.length ≤ 128 := by
  simp [State.staticScene]

/-! ### What the SINK holds -/

theorem lastOn_append (ch : BitVec 8) (a b : List Event) : lastOn ch (a ++ b) = (lastOn ch b).or (lastOn ch a) := by
  unfold lastOn
  rw [List.filter_append, List.getLast?_append]
  cases (List.filter (fun x => x.ch == ch) b).getLast? <;> simp

theorem lastOn_of_absent (ch : BitVec 8) (a : List Event) (h : ∀ e ∈ a, e.ch ≠ ch) : lastOn ch a = none := by
  unfold lastOn
  rw [List.filter_eq_nil_iff.2 (by intro e he; simp [h e he])]
  rfl

/-- A SET_VALUE's write to DYN (43_scene_engine.md R223). -/
theorem setValue_dyn (s : State) (x : Slot) : (s.setValue x).dyn =
    if x.set = true ∧ x.ch.toNat ≤ 127 then s.dyn.setIfInBounds x.ch.toNat x else s.dyn := by
  unfold State.setValue channelAccepted Config.chMax
  by_cases h : x.set = true ∧ x.ch.toNat ≤ 127
  · simp [h]
  · rw [if_neg h, if_neg (by simpa using h)]

/-! ### The store -/

/-- What BvPush does within the store's bounds: nothing at 128 entries, else the entry goes to the end, a full capacity
having doubled (40_bounded_vector.md R141). -/
theorem bvPush_eq (h : s.StoreBounds) (v : Slot) : s.bvPush v =
    if s.ssSize.toNat = 128 then s
    else { s with
      ssData := s.ssData.setIfInBounds s.ssSize.toNat v
      ssSize := BitVec.ofNat 8 (s.ssSize.toNat + 1)
      ssCap := if s.ssSize = s.ssCap then BitVec.ofNat 8 (2 * s.ssCap.toNat) else s.ssCap } := by
  obtain ⟨hcap, hsize⟩ := h
  have hc : s.ssCap.toNat = 16 ∨ s.ssCap.toNat = 32 ∨ s.ssCap.toNat = 64 ∨ s.ssCap.toNat = 128 := by
    rcases hcap with h | h | h | h <;> simp [h]
  by_cases hfull : s.ssSize = s.ssCap
  · by_cases h128 : s.ssCap.toNat = 128
    · have hs : s.ssSize.toNat = 128 := by rw [hfull, h128]
      rw [if_pos hs, State.bvPush, State.bvGrow, if_neg (by simp [Config.bvMax, h128]), State.bvStore, if_neg (by omega)]
    · have hs : s.ssSize.toNat = s.ssCap.toNat := by rw [hfull]
      have hlt : s.ssCap.toNat < Config.bvMax := by simp only [Config.bvMax]; omega
      have hmin : min (2 * s.ssCap.toNat) Config.bvMax = 2 * s.ssCap.toNat := by
        simp only [Config.bvMax]; omega
      rw [if_neg (by omega), State.bvPush, State.bvGrow, if_pos ⟨hfull, hlt⟩, hmin, State.bvStore, if_pos (by
        simp only [BitVec.toNat_ofNat]; omega)]
      simp [hfull]
  · have hne : s.ssSize.toNat ≠ s.ssCap.toNat := fun h => hfull (BitVec.eq_of_toNat_eq h)
    rw [if_neg (by omega), State.bvPush, State.bvGrow, if_neg (by simp [hfull]), State.bvStore, if_pos (by omega)]
    simp [hfull]

theorem storeEmpty_iff (size : BitVec 8) : storeEmpty size = true ↔ size.toNat = 0 := by
  rw [storeEmpty, beq_iff_eq]
  constructor
  · intro h; rw [h]; rfl
  · intro h; exact BitVec.eq_of_toNat_eq h

/-- BV_POP's removal in plain numbers (40_bounded_vector.md R143). -/
theorem bvPop_eq (s : State) : s.bvPop =
    if s.ssSize.toNat = 0 then s
    else { s with
      ssSize := BitVec.ofNat 8 (s.ssSize.toNat - 1)
      ssData := s.ssData.setIfInBounds (s.ssSize.toNat - 1) .default } := by
  unfold State.bvPop
  by_cases h : s.ssSize.toNat = 0
  · rw [if_pos h, if_pos ((storeEmpty_iff _).2 h)]
  · rw [if_neg h, if_neg (fun h' => h ((storeEmpty_iff _).1 h'))]

end Sys2Proof.Machine
end

