-- ==== Sys2Proof/Laws/Invariant.lean ====
section
/-! SUPPORT. The shared operations keep the block's invariant; reset meets the sync filter's range. -/

namespace Sys2Proof.Machine

variable {s t : State}

/-- The invariant reads only these fields. -/
theorem State.Inv.congr (h : s.Inv) (h1 : t.filter = s.filter) (h2 : t.gain.toNat ≤ 1024) (h3 : t.status.toNat < 4)
    (h4 : t.dyn = s.dyn) (h5 : t.ssData = s.ssData) (h6 : t.ssSize = s.ssSize) (h7 : t.ssCap = s.ssCap)
    (h8 : t.pstate = .idle) : t.Inv := by
  obtain ⟨a1, -, -, a4, ⟨a5, a5'⟩, a6, a7, -⟩ := h
  refine ⟨by rw [h1]; exact a1, h2, h3, ?_, ⟨?_, ?_⟩, ?_, ?_, h8⟩
  · unfold State.DynIndexed; rw [h4]; exact a4
  · rw [h7]; exact a5
  · rw [h6, h7]; exact a5'
  · unfold State.StoreVacant; rw [h5, h6]; exact a6
  · unfold State.StoreUnsetDefault; rw [h5]; exact a7

theorem State.Inv.respond (h : s.Inv) (w : Word) : (s.respond w).Inv :=
  h.congr rfl h.gain_legal h.status_reserved rfl rfl rfl rfl h.parser_idle

theorem State.Inv.emitAll (h : s.Inv) (events : List Event) : (s.emitAll events).Inv :=
  h.congr rfl h.gain_legal h.status_reserved rfl rfl rfl rfl h.parser_idle

theorem State.Inv.raiseFault (h : s.Inv) (code : FaultCode) : (s.raiseFault code).Inv := by
  refine h.congr rfl h.gain_legal ?_ rfl rfl rfl rfl h.parser_idle
  have := h.status_reserved
  simp only [State.raiseFault_status, BitVec.toNat_or]
  exact Nat.or_lt_two_pow (n := 2) this (by cases code <;> decide)

theorem State.StoreBounds.cap_nat (h : s.StoreBounds) :
    s.ssCap.toNat = 16 ∨ s.ssCap.toNat = 32 ∨ s.ssCap.toNat = 64 ∨ s.ssCap.toNat = 128 := by
  rcases h.cap_legal with h | h | h | h <;> simp [h]

theorem State.Inv.bvPush (h : s.Inv) (v : Slot) (hv : v.set = false → v = .default) : (s.bvPush v).Inv := by
  have hc := h.store_bounds.cap_nat
  rw [bvPush_eq h.store_bounds]
  obtain ⟨a1, a2, a3, a4, ⟨a5, a5'⟩, a6, a7, a8⟩ := h
  split
  · exact ⟨a1, a2, a3, a4, ⟨a5, a5'⟩, a6, a7, a8⟩
  · rename_i hn
    have hs : (BitVec.ofNat 8 (s.ssSize.toNat + 1)).toNat = s.ssSize.toNat + 1 := by simp; omega
    refine ⟨a1, a2, a3, a4, ⟨?_, ?_⟩, ?_, ?_, a8⟩
    · simp only
      split
      · rename_i he
        have he' : s.ssSize.toNat = s.ssCap.toNat := by rw [he]
        rcases a5 with h | h | h | h
        · right; left; rw [h]; rfl
        · right; right; left; rw [h]; rfl
        · right; right; right; rw [h]; rfl
        · rw [h] at he'; exact absurd he' hn
      · exact a5
    · simp only [hs]
      split
      · rename_i he
        have he' : s.ssSize.toNat = s.ssCap.toNat := by rw [he]
        simp; omega
      · rename_i he
        have : s.ssSize.toNat ≠ s.ssCap.toNat := fun h => he (BitVec.eq_of_toNat_eq h)
        omega
    · intro i hi
      simp only [hs] at hi
      rw [slotAt_write_other (by omega)]; exact a6 i (by omega)
    · intro i hi
      simp only at hi ⊢
      by_cases h : s.ssSize.toNat = i
      · subst h
        rw [slotAt_write_same (by omega)] at hi ⊢; exact hv hi
      · rw [slotAt_write_other h] at hi ⊢; exact a7 i hi

theorem State.Inv.bvPop (h : s.Inv) : s.bvPop.Inv := by
  have hc := h.store_bounds.cap_nat
  rw [bvPop_eq]
  obtain ⟨a1, a2, a3, a4, ⟨a5, a5'⟩, a6, a7, a8⟩ := h
  split
  · exact ⟨a1, a2, a3, a4, ⟨a5, a5'⟩, a6, a7, a8⟩
  · have hs : (BitVec.ofNat 8 (s.ssSize.toNat - 1)).toNat = s.ssSize.toNat - 1 := by simp; omega
    refine ⟨a1, a2, a3, a4, ⟨a5, ?_⟩, ?_, ?_, a8⟩
    · simp only [hs]; omega
    · intro i hi
      simp only [hs] at hi
      by_cases h : s.ssSize.toNat - 1 = i
      · subst h; exact slotAt_write_same (by omega)
      · simp only; rw [slotAt_write_other h]; exact a6 i (by omega)
    · intro i hi
      simp only at hi ⊢
      by_cases h : s.ssSize.toNat - 1 = i
      · subst h; exact slotAt_write_same (by omega)
      · rw [slotAt_write_other h] at hi ⊢; exact a7 i hi

theorem State.Inv.setValue (h : s.Inv) (x : Slot) : (s.setValue x).Inv := by
  have hd : (s.setValue x).DynIndexed := by
    unfold State.DynIndexed
    rw [setValue_dyn]
    split
    · rename_i hx
      intro i hi
      by_cases hh : x.ch.toNat = i
      · subst hh
        rw [slotAt_write_same hi]; right
        obtain ⟨a, b, c⟩ := x
        simp [makeSlot] at hx ⊢; exact hx.1
      · rw [slotAt_write_other hh]; exact h.dyn_indexed i hi
    · exact h.dyn_indexed
  obtain ⟨a1, a2, a3, -, ⟨a5, a5'⟩, a6, a7, a8⟩ := h
  refine ⟨by simpa using a1, by simpa using a2, by simpa using a3, hd, ⟨by simpa using a5, by simpa using a5'⟩,
    ?_, ?_, by simpa using a8⟩
  · unfold State.StoreVacant; simpa [State.StoreVacant] using a6
  · unfold State.StoreUnsetDefault; simpa [State.StoreUnsetDefault] using a7

/-! ### The sync filter (42_frame_parser.md R190) -/

theorem syncFilter_low {p : Int} (h : p < 1) : syncFilter p = 0xB0#8 := by
  have : clamp p 1 16 = 1 := by unfold clamp; omega
  simp [syncFilter, this, Config.ccStatusBase]

theorem syncFilter_high {p : Int} (h : 16 < p) : syncFilter p = 0xBF#8 := by
  have : clamp p 1 16 = 16 := by unfold clamp; omega
  simp [syncFilter, this, Config.ccStatusBase]

theorem syncFilter_mid {p : Int} (h1 : 1 ≤ p) (h2 : p ≤ 16) : ((syncFilter p).toNat : Int) = 0xB0 + (p - 1) := by
  have key : ∀ n : Nat, n < 16 → (0xB0#8 ||| (BitVec.ofNat 8 n &&& 0x0F#8)).toNat = 0xB0 + n := by
    intro n hn; interval_cases n <;> rfl
  have : clamp p 1 16 = p := by unfold clamp; omega
  rw [syncFilter, this, Config.ccStatusBase, key _ (by omega)]
  omega

end Sys2Proof.Machine
end

