-- ==== Sys2Proof/Laws/Parser.lean ====
section
/-! SUPPORT. What the receive stream's accesses and the parser's micro-steps can do, said once: arrivals, RX order, totality, and each line of 42_frame_parser.md R192 when nothing arrives. -/

namespace Sys2Proof.Machine

variable {s t u : State}

/-! ### Arrivals -/

theorem deliver_of_quiet (h : s.quiet = true) : s.deliver = s := by
  unfold State.quiet at h
  unfold State.deliver
  split
  · rename_i heq; simp [heq] at h
  · rfl

theorem deliver_of_arrive {bytes : List Byte} {rest : List PortAction} (h : s.timeline = .arrive bytes :: rest) :
    s.deliver = { s with rx := s.rx ++ bytes, timeline := rest } := by
  unfold State.deliver
  rw [h]

theorem deliver_cases (s : State) : (s.quiet = true ∧ s.deliver = s) ∨
    ∃ bytes rest, s.timeline = .arrive bytes :: rest ∧ s.deliver = { s with rx := s.rx ++ bytes, timeline := rest } := by
  by_cases h : s.quiet = true
  · exact .inl ⟨h, deliver_of_quiet h⟩
  · unfold State.quiet at h
    split at h
    · rename_i bytes rest heq
      exact .inr ⟨bytes, rest, heq, deliver_of_arrive heq⟩
    · exact absurd rfl h

/-- The bytes RX holds or can still get before the next HOST action. -/
def byteWeight (s : State) : Nat := s.rx.length + arrivingBytes s.timeline

theorem byteWeight_deliver (s : State) : byteWeight s.deliver = byteWeight s := by
  rcases deliver_cases s with ⟨-, h⟩ | ⟨bytes, rest, ht, h⟩
  · rw [h]
  · rw [h, byteWeight, byteWeight, ht]
    simp only [List.length_append, arrivingBytes]
    omega

theorem length_le_deliver (s : State) : s.rx.length ≤ s.deliver.rx.length := by
  rcases deliver_cases s with ⟨-, h⟩ | ⟨bytes, rest, -, h⟩ <;> rw [h]
  simp

/-! ### RX order -/

theorem RxMoves.refl (s : State) : RxMoves s s [] := ⟨[], by simp, by simp⟩

theorem RxMoves.trans {p q : List Byte} (h : RxMoves s t p) (h' : RxMoves t u q) : RxMoves s u (p ++ q) := by
  obtain ⟨a, ha, hr⟩ := h
  obtain ⟨b, hb, hr'⟩ := h'
  refine ⟨a ++ b, by simp [ha, hb], ?_⟩
  rw [List.flatten_append, ← List.append_assoc, hr, List.append_assoc, hr', List.append_assoc]

theorem RxMoves.deliver (s : State) : RxMoves s s.deliver [] := by
  rcases deliver_cases s with ⟨-, h⟩ | ⟨bytes, rest, ht, h⟩
  · rw [h]; exact .refl s
  · rw [h]; exact ⟨[bytes], by simp [ht], by simp⟩

/-- A pop takes the oldest byte of what RX holds after the arrivals of its access. -/
theorem rxPop_some {b : Byte} (h : s.rxPop = some (b, t)) :
    RxMoves s t [b] ∧ byteWeight t + 1 = byteWeight s ∧ s.deliver.rx = b :: t.rx ∧ t = { s.deliver with rx := t.rx } := by
  unfold State.rxPop at h
  split at h
  · rename_i b' rest heq
    cases h
    refine ⟨?_, ?_, heq, rfl⟩
    · obtain ⟨a, ha, hr⟩ := RxMoves.deliver s
      exact ⟨a, by simpa using ha, by simpa [heq] using hr⟩
    · rw [← byteWeight_deliver s, byteWeight, byteWeight, heq]
      simp only [List.length_cons]
      omega
  · cases h

theorem rxPop_total (h : 1 ≤ s.rx.length) : ∃ b t, s.rxPop = some (b, t) := by
  have := length_le_deliver s
  unfold State.rxPop
  cases hd : s.deliver.rx with
  | nil => simp [hd] at this; simp [this] at h
  | cons b rest => exact ⟨b, _, rfl⟩

/-! ### Micro-steps -/

/-- Nothing but RESP, RX, PSTATE and the arrivals taken differs. -/
def SameButParser (s t : State) : Prop :=
  t = { s with resp := t.resp, rx := t.rx, timeline := t.timeline, pstate := t.pstate }

theorem SameButParser.refl (s : State) : SameButParser s s := rfl

theorem SameButParser.trans (h : SameButParser s t) (h' : SameButParser t u) : SameButParser s u := by
  unfold SameButParser at *
  rw [h', h]

theorem SameButParser.deliver (s : State) : SameButParser s s.deliver := by
  rcases deliver_cases s with ⟨-, h⟩ | ⟨_, _, -, h⟩ <;> rw [h] <;> rfl

theorem SameButParser.rxPop {b : Byte} (h : s.rxPop = some (b, t)) : SameButParser s t := by
  refine (SameButParser.deliver s).trans ?_
  have := (rxPop_some h).2.2.2
  unfold SameButParser
  rw [this]

/-- What a PSTATE promises of RX: HARVEST is entered with two bytes present (42_frame_parser.md R191). -/
def ParserReady (s : State) : Prop := s.pstate = .harvest → 2 ≤ s.rx.length

/-- Micro-steps that can still follow. -/
def stepsLeft (s : State) : Nat :=
  match s.pstate with
  | .idle => 0
  | .harvest => 1
  | .avail => 2
  | .scan => byteWeight s + 3

theorem scanStep_next (hp : s.pstate = .scan) : ∃ t popped, s.scanStep = .next t ∧ RxMoves s t popped ∧
    SameButParser s t ∧ ParserReady t ∧ stepsLeft t < stepsLeft s := by
  unfold State.scanStep
  by_cases h0 : s.rxAvail.1 = 0
  · rw [if_pos h0]
    refine ⟨_, [], rfl, ?_, ?_, ?_, ?_⟩
    · exact (RxMoves.deliver s)
    · exact (SameButParser.deliver s).trans rfl
    · intro h; cases h
    · simp [stepsLeft, hp, State.rxAvail]
  · rw [if_neg h0]
    have hlen : 1 ≤ s.deliver.rx.length := by
      simp only [State.rxAvail] at h0; omega
    obtain ⟨b, u, hu⟩ := rxPop_total hlen
    simp only [State.rxAvail, hu]
    obtain ⟨hm, hw, -, -⟩ := rxPop_some hu
    rw [byteWeight_deliver] at hw
    have hsame := (SameButParser.deliver s).trans (SameButParser.rxPop hu)
    have hmoves := (RxMoves.deliver s).trans hm
    have hup : u.pstate = .scan := by
      rw [(rxPop_some hu).2.2.2]; simpa using hp
    by_cases hb : b = u.filter
    · refine ⟨{ u with pstate := .avail }, _, by rw [if_pos hb], hmoves, hsame.trans rfl, ?_, ?_⟩
      · intro h; cases h
      · simp only [stepsLeft, hp]; omega
    · refine ⟨u, _, by rw [if_neg hb], hmoves, hsame, ?_, ?_⟩
      · intro h; rw [hup] at h; cases h
      · simp only [stepsLeft, hp, hup]; omega

theorem availStep_next (hp : s.pstate = .avail) : RxMoves s s.availStep [] ∧
    SameButParser s s.availStep ∧ ParserReady s.availStep ∧ stepsLeft s.availStep < stepsLeft s := by
  unfold State.availStep
  by_cases h0 : s.rxAvail.1 < 2
  · rw [if_pos h0]
    refine ⟨RxMoves.deliver s, (SameButParser.deliver s).trans rfl, ?_, ?_⟩
    · intro h; cases h
    · simp [stepsLeft, hp]
  · rw [if_neg h0]
    refine ⟨RxMoves.deliver s, (SameButParser.deliver s).trans rfl, ?_, ?_⟩
    · intro _
      simp only [State.rxAvail] at h0 ⊢
      omega
    · simp [stepsLeft, hp]

theorem harvested_same (d1 d2 : Byte) : SameButParser s (s.harvested d1 d2) := by
  unfold State.harvested
  split <;> rfl

theorem harvested_pstate (d1 d2 : Byte) : (s.harvested d1 d2).pstate = .idle := by
  unfold State.harvested
  split <;> rfl

theorem harvestStep_next (hlen : 2 ≤ s.rx.length) : ∃ t popped, s.harvestStep = .next t ∧ RxMoves s t popped ∧
    SameButParser s t ∧ t.pstate = .idle := by
  obtain ⟨d1, s1, h1⟩ := rxPop_total (s := s) (by omega)
  have hl1 : 1 ≤ s1.rx.length := by
    have := length_le_deliver s
    rw [(rxPop_some h1).2.2.1] at this
    simp only [List.length_cons] at this
    omega
  obtain ⟨d2, s2, h2⟩ := rxPop_total hl1
  have hm := (rxPop_some h1).1.trans (rxPop_some h2).1
  have hs := (SameButParser.rxPop h1).trans (SameButParser.rxPop h2)
  refine ⟨s2.harvested d1 d2, [d1] ++ [d2], by simp [State.harvestStep, h1, h2], ?_, hs.trans (harvested_same d1 d2),
    harvested_pstate d1 d2⟩
  simpa [RxMoves] using hm

/-- Every micro-step goes on, keeps the stream's order and gets nearer the end. -/
theorem parserStep_next (hr : ParserReady s) (hp : s.pstate ≠ .idle) : ∃ t popped, parserStep s = .next t ∧
    RxMoves s t popped ∧ SameButParser s t ∧ ParserReady t ∧ stepsLeft t < stepsLeft s := by
  unfold parserStep
  cases h : s.pstate with
  | idle => exact absurd h hp
  | scan => exact scanStep_next h
  | avail =>
    obtain ⟨h1, h2, h3, h4⟩ := availStep_next h
    exact ⟨_, _, rfl, h1, h2, h3, h4⟩
  | harvest =>
    obtain ⟨t, popped, h1, h2, h3, h4⟩ := harvestStep_next (hr h)
    refine ⟨t, popped, h1, h2, h3, ?_, ?_⟩
    · intro h'; rw [h4] at h'; cases h'
    · simp [stepsLeft, h, h4]

/-- Enough micro-steps reach IDLE, whatever arrives: the scan ends and no pop reads the sentinel
(42_frame_parser.md R191, R198). -/
theorem runParser_next (fuel : Nat) (s : State) (hr : ParserReady s) (hf : stepsLeft s ≤ fuel) : ∃ t popped,
    runParser fuel s = .next t ∧ RxMoves s t popped ∧ SameButParser s t ∧ t.pstate = .idle := by
  induction fuel generalizing s with
  | zero =>
    have hp : s.pstate = .idle := by
      cases h : s.pstate <;> simp [stepsLeft, h] at hf ⊢
    exact ⟨s, [], by simp [runParser, hp], .refl s, .refl s, hp⟩
  | succ n ih =>
    by_cases hp : s.pstate = .idle
    · exact ⟨s, [], by simp [runParser, hp], .refl s, .refl s, hp⟩
    · obtain ⟨u, p, h1, h2, h3, h4, h5⟩ := parserStep_next hr hp
      obtain ⟨t, q, k1, k2, k3, k4⟩ := ih u h4 (by omega)
      exact ⟨t, p ++ q, by simp [runParser, hp, h1, k1], h2.trans k2, h3.trans k3, k4⟩

/-- READ_CC's micro-steps from SCAN suffice. -/
theorem parserFuel_enough (s : State) : stepsLeft { s with pstate := .scan } ≤ parserFuel s := by
  simp [stepsLeft, parserFuel, byteWeight]

/-! ### The lines of R192 when nothing arrives -/

theorem rxPop_of_quiet {b : Byte} {rest : List Byte} (hq : s.quiet = true) (hx : s.rx = b :: rest) :
    s.rxPop = some (b, { s with rx := rest }) := by
  simp [State.rxPop, deliver_of_quiet hq, hx]

theorem parserStep_scan_empty (hq : s.quiet = true) (hp : s.pstate = .scan) (hx : s.rx = []) :
    parserStep s = .next s.noMessage := by
  simp [parserStep, hp, State.scanStep, State.rxAvail, deliver_of_quiet hq, hx]

theorem parserStep_scan_skip {b : Byte} {rest : List Byte} (hq : s.quiet = true) (hp : s.pstate = .scan)
    (hx : s.rx = b :: rest) (hb : b ≠ s.filter) : parserStep s = .next { s with rx := rest } := by
  simp [parserStep, hp, State.scanStep, State.rxAvail, deliver_of_quiet hq, rxPop_of_quiet hq hx, hx, hb]

theorem parserStep_scan_sync {rest : List Byte} (hq : s.quiet = true) (hp : s.pstate = .scan)
    (hx : s.rx = s.filter :: rest) : parserStep s = .next { s with rx := rest, pstate := .avail } := by
  simp [parserStep, hp, State.scanStep, State.rxAvail, deliver_of_quiet hq, rxPop_of_quiet hq hx, hx]

theorem parserStep_avail (hq : s.quiet = true) (hp : s.pstate = .avail) :
    parserStep s = .next (if s.rx.length < 2 then s.noMessage else { s with pstate := .harvest }) := by
  simp [parserStep, hp, State.availStep, State.rxAvail, deliver_of_quiet hq]

theorem parserStep_harvest {d1 d2 : Byte} {rest : List Byte} (hq : s.quiet = true) (hp : s.pstate = .harvest)
    (hx : s.rx = d1 :: d2 :: rest) : parserStep s = .next ({ s with rx := rest }.harvested d1 d2) := by
  have h2 : ({ s with rx := d2 :: rest } : State).rxPop = some (d2, { s with rx := rest }) :=
    rxPop_of_quiet (s := { s with rx := d2 :: rest }) hq rfl
  have hline : parserStep s = s.harvestStep := by simp [parserStep, hp]
  rw [hline]
  simp only [State.harvestStep, rxPop_of_quiet hq hx, h2]

/-! ### Runs -/

theorem runParser_succ {n : Nat} (hp : s.pstate ≠ .idle) (h : parserStep s = .next t) :
    runParser (n + 1) s = runParser n t := by
  simp [runParser, hp, h]

theorem runParser_idle {n : Nat} (hp : s.pstate = .idle) : runParser n s = .next s := by
  cases n <;> simp [runParser, hp]

/-- A scan discards the bytes before the sync byte, one micro-step each (42_frame_parser.md R193). -/
theorem runParser_scan_skip (skipped tail : List Byte) (n : Nat) (s : State) (hq : s.quiet = true)
    (hp : s.pstate = .scan) (hx : s.rx = skipped ++ tail) (hn : s.filter ∉ skipped) :
    runParser (skipped.length + n) s = runParser n { s with rx := tail } := by
  induction skipped generalizing s with
  | nil => simp at hx ⊢; rw [← hx]
  | cons b r ih =>
    simp at hn
    rw [List.length_cons, show r.length + 1 + n = (r.length + n) + 1 by omega,
      runParser_succ (by rw [hp]; simp) (parserStep_scan_skip hq hp (by simpa using hx) (Ne.symm hn.1))]
    exact ih { s with rx := r ++ tail } hq hp rfl hn.2

theorem arrivingBytes_of_quiet (hq : s.quiet = true) : arrivingBytes s.timeline = 0 := by
  unfold State.quiet at hq
  split at hq
  · cases hq
  · unfold arrivingBytes; split
    · rename_i h _ _ _; simp_all
    · rfl

end Sys2Proof.Machine
end

