-- ==== Sys2Proof/Laws/PerInstr.lean ====
section
/-! SUPPORT. One lemma per instruction: its fields are in range, and its encoding shows its own row's fixed bits (30_encoding.md R104, R105, R108). -/

namespace Sys2Proof.Laws.RowOwnsWord

/-- The mask and match value that opcode_table.json gives the instruction's row. -/
def rowBits : Instr → Nat × Nat
  | .readCc => (0xFFFFFFFF, 0x10000000)
  | .toDmx _ _ => (0xFFFF0000, 0x20000000)
  | .setValue _ _ _ => (0xFFFE0000, 0x30000000)
  | .setGain _ => (0xFFFF0000, 0x40000000)
  | .staticAppend _ _ => (0xFFFF0000, 0x50000000)
  | .switchScene _ => (0xFFFFFFFE, 0x60000000)
  | .getGain => (0xFFFFFFFF, 0x70000000)
  | .getScene => (0xFFFFFFFF, 0x71000000)
  | .getFilter => (0xFFFFFFFF, 0x72000000)
  | .getStatus => (0xFFFFFFFF, 0x73000000)
  | .getDyn _ => (0xFFFFFF80, 0x74000000)
  | .bvPush _ _ _ => (0xFFFE0000, 0x80000000)
  | .bvPop => (0xFFFFFFFF, 0x90000000)
  | .bvSize => (0xFFFFFFFF, 0xA0000000)
  | .bvCapacity => (0xFFFFFFFF, 0xB0000000)
  | .bvMaxSize => (0xFFFFFFFF, 0xC0000000)
  | .bvEmpty => (0xFFFFFFFF, 0xD0000000)
  | .bvRead _ => (0xFFFFFF80, 0xE0000000)
  | .midiCcFrame _ _ _ => (0xF08080, 0xB00000)

/-- The action shows the bits `value` under `mask`: a command word's 32 bits, or a frame's 24. -/
def shows : PortAction → Nat × Nat → Prop
  | .command w, (mask, value) => w &&& BitVec.ofNat 32 mask = BitVec.ofNat 32 value
  | .arrive [s, c, v], (mask, value) => frameBits s c v &&& BitVec.ofNat 24 mask = BitVec.ofNat 24 value
  | _, _ => False

/-- The instruction is well formed and its encoding shows its row's bits. -/
def Statement (i : Instr) : Prop := i.wellFormed = true ∧ shows (encode i) (rowBits i)

end Sys2Proof.Laws.RowOwnsWord

open Sys2Proof Sys2Proof.Laws

theorem Sys2Proof.Laws.RowOwnsWord.readCc : RowOwnsWord.Statement .readCc :=
  ⟨instr_wellFormed _, rfl⟩

theorem Sys2Proof.Laws.RowOwnsWord.toDmx (a b : BitVec 8) : RowOwnsWord.Statement (.toDmx a b) :=
  ⟨instr_wellFormed _, wordB_and _ a b _ (by decide)⟩

theorem Sys2Proof.Laws.RowOwnsWord.setValue (set : Bool) (c i : BitVec 8) : RowOwnsWord.Statement (.setValue set c i) :=
  ⟨instr_wellFormed _, wordS_and _ set c i _ (by decide)⟩

theorem Sys2Proof.Laws.RowOwnsWord.setGain (g : BitVec 16) : RowOwnsWord.Statement (.setGain g) :=
  ⟨instr_wellFormed _, wordG_and _ g _ (by decide)⟩

theorem Sys2Proof.Laws.RowOwnsWord.staticAppend (a b : BitVec 8) : RowOwnsWord.Statement (.staticAppend a b) :=
  ⟨instr_wellFormed _, wordB_and _ a b _ (by decide)⟩

theorem Sys2Proof.Laws.RowOwnsWord.switchScene (d : Bool) : RowOwnsWord.Statement (.switchScene d) :=
  ⟨instr_wellFormed _, wordF_and _ d _ (by decide)⟩

theorem Sys2Proof.Laws.RowOwnsWord.getGain : RowOwnsWord.Statement .getGain :=
  ⟨instr_wellFormed _, rfl⟩

theorem Sys2Proof.Laws.RowOwnsWord.getScene : RowOwnsWord.Statement .getScene :=
  ⟨instr_wellFormed _, rfl⟩

theorem Sys2Proof.Laws.RowOwnsWord.getFilter : RowOwnsWord.Statement .getFilter :=
  ⟨instr_wellFormed _, rfl⟩

theorem Sys2Proof.Laws.RowOwnsWord.getStatus : RowOwnsWord.Statement .getStatus :=
  ⟨instr_wellFormed _, rfl⟩

theorem Sys2Proof.Laws.RowOwnsWord.getDyn (x : BitVec 7) : RowOwnsWord.Statement (.getDyn x) :=
  ⟨instr_wellFormed _, wordX_and _ x _ (by decide)⟩

theorem Sys2Proof.Laws.RowOwnsWord.bvPush (set : Bool) (c i : BitVec 8) : RowOwnsWord.Statement (.bvPush set c i) :=
  ⟨instr_wellFormed _, wordS_and _ set c i _ (by decide)⟩

theorem Sys2Proof.Laws.RowOwnsWord.bvPop : RowOwnsWord.Statement .bvPop :=
  ⟨instr_wellFormed _, rfl⟩

theorem Sys2Proof.Laws.RowOwnsWord.bvSize : RowOwnsWord.Statement .bvSize :=
  ⟨instr_wellFormed _, rfl⟩

theorem Sys2Proof.Laws.RowOwnsWord.bvCapacity : RowOwnsWord.Statement .bvCapacity :=
  ⟨instr_wellFormed _, rfl⟩

theorem Sys2Proof.Laws.RowOwnsWord.bvMaxSize : RowOwnsWord.Statement .bvMaxSize :=
  ⟨instr_wellFormed _, rfl⟩

theorem Sys2Proof.Laws.RowOwnsWord.bvEmpty : RowOwnsWord.Statement .bvEmpty :=
  ⟨instr_wellFormed _, rfl⟩

theorem Sys2Proof.Laws.RowOwnsWord.bvRead (x : BitVec 7) : RowOwnsWord.Statement (.bvRead x) :=
  ⟨instr_wellFormed _, wordX_and _ x _ (by decide)⟩

theorem Sys2Proof.Laws.RowOwnsWord.midiCcFrame (n : BitVec 4) (c v : BitVec 7) : RowOwnsWord.Statement (.midiCcFrame n c v) :=
  ⟨instr_wellFormed _, frameBits_encodeFrame n c v⟩
end

