-- ==== Sys2Proof/Laws/Step.lean ====
section
/-! SUPPORT. Everything one step can be, said once, and the meaning of READ_CC as one lemma. -/

namespace Sys2Proof.Machine

variable {s t : State}

/-- A step is the timeline's end, an instruction's execution, an illegal word, bytes that form no frame, or a reset. -/
theorem step_cases (h : step s = .next t) :
    (s.timeline = [] ∧ t = s) ∨
    (∃ a rest i, s.timeline = a :: rest ∧ decodeAction a = some i ∧ exec i { s with timeline := rest } = .next t) ∨
    (∃ w rest, s.timeline = .command w :: rest ∧ decodeCommand w = none ∧
      t = ({ s with timeline := rest } : State).raiseFault .illegal) ∨
    (∃ bytes rest, s.timeline = .arrive bytes :: rest ∧ decodeFrame bytes = none ∧
      t = ({ s with timeline := rest } : State).rxAppend bytes) ∨
    (∃ channel rest, s.timeline = .reset channel :: rest ∧
      t = ({ s with timeline := rest } : State).applyReset channel) := by
  unfold step fetch at h
  cases ht : s.timeline with
  | nil => rw [ht] at h; cases h; exact .inl ⟨rfl, rfl⟩
  | cons a rest =>
    rw [ht] at h
    simp only at h
    cases hd : decodeAction a with
    | some i => rw [hd] at h; exact .inr (.inl ⟨a, rest, i, rfl, hd, h⟩)
    | none =>
      rw [hd] at h
      cases h
      cases a with
      | command w => exact .inr (.inr (.inl ⟨w, rest, rfl, hd, rfl⟩))
      | arrive bytes => exact .inr (.inr (.inr (.inl ⟨bytes, rest, rfl, hd, rfl⟩)))
      | reset channel => exact .inr (.inr (.inr (.inr ⟨channel, rest, rfl, rfl⟩)))

/-- What READ_CC's answer can be: a next state in which only RESP, RX and the arrivals taken differ, with PSTATE IDLE. -/
theorem execReadCc_cases (h : execReadCc s = .next t) :
    (∃ popped, RxMoves s t popped) ∧ t = { s with resp := t.resp, rx := t.rx, timeline := t.timeline, pstate := .idle } := by
  obtain ⟨u, p, h1, h2, h3, h4⟩ := runParser_next (parserFuel s) { s with pstate := .scan } (by intro h; cases h)
    (parserFuel_enough s)
  have : u = t := by
    have := h1.symm.trans h
    cases this; rfl
  subst this
  exact ⟨⟨p, h2⟩, by rw [h3, h4]⟩

end Sys2Proof.Machine
end

