-- ==== Sys2Proof/Tests/Slice0.lean ====
section
/-! SUPPORT. The model's own tests: refused assembler lines, decoding of the spec's words, one-step tests from 95_test_vectors.md (the vector's id in each name or comment), and a witness for the hypotheses of each statement. -/

namespace Sys2Proof.Tests

open Sys2Proof.Machine

/-! ### WellFormed: each check refuses an ill-formed line (30_encoding.md R109) -/

theorem test_byte_operand_refused : assemble (.toDmx 256 0) = none ∧ assemble (.toDmx 0 256) = none := by decide
theorem test_slot_operand_refused : assemble (.setValue 256 0) = none ∧ assemble (.bvPush 0 256) = none := by decide
theorem test_append_operand_refused : assemble (.staticAppend 256 0) = none ∧ assemble (.staticAppend 0 256) = none := by
  decide
theorem test_gain_operand_refused : assemble (.setGain 65536) = none := by decide
theorem test_index_operand_refused : assemble (.getDyn 128) = none ∧ assemble (.bvRead 128) = none := by decide
theorem test_word_operand_refused : assemble (.word 0x100000000) = none := by decide
theorem test_scene_lists_refused : assemble (.setStaticScene [1, 256] [] [] 0 0 0) = none ∧
    assemble (.setStaticScene [] [256] [] 0 0 0) = none ∧ assemble (.setStaticScene [] [] [256] 0 0 0) = none := by decide
theorem test_scene_colours_refused : assemble (.setStaticScene [] [] [] 256 0 0) = none ∧
    assemble (.setStaticScene [] [] [] 0 256 0) = none ∧ assemble (.setStaticScene [] [] [] 0 0 256) = none := by decide

/-- The largest operands are accepted, with the words of R109. -/
theorem test_operand_limits_accepted : assemble (.toDmx 255 255) = some [0x2000FFFF#32] ∧
    assemble (.setGain 65535) = some [0x4000FFFF#32] ∧ assemble (.getDyn 127) = some [0x7400007F#32] ∧
    assemble (.word 0xFFFFFFFF) = some [0xFFFFFFFF#32] := by decide

/-- L3, lines 1 to 5. -/
theorem test_assemble_setStaticScene : assemble (.setStaticScene [1, 2] [2, 200] [0] 255 128 64) =
    some [0x500001FF#32, 0x500002FF#32, 0x50000280#32, 0x5000C880#32, 0x50000040#32] := by decide

/-! ### Decoding: each row's word, its bits written from 30_encoding.md R101, R104, R105 -/

theorem test_decode_readCc : decodeCommand 0b00010000000000000000000000000000#32 = some .readCc := by decide
theorem test_decode_toDmx : decodeCommand 0b00100000000000001100100000111111#32 = some (.toDmx 200 63) := by decide
theorem test_decode_setValue : decodeCommand 0b00110000000000010000001100110010#32 = some (.setValue true 3 50) := by decide
theorem test_decode_setGain : decodeCommand 0b01000000000000000000011111010000#32 = some (.setGain 2000) := by decide
theorem test_decode_staticAppend : decodeCommand 0b01010000000000000000011101011010#32 = some (.staticAppend 7 90) := by
  decide
theorem test_decode_switchScene : decodeCommand 0b01100000000000000000000000000001#32 = some (.switchScene true) := by
  decide
theorem test_decode_getGain : decodeCommand 0b01110000000000000000000000000000#32 = some .getGain := by decide
theorem test_decode_getScene : decodeCommand 0b01110001000000000000000000000000#32 = some .getScene := by decide
theorem test_decode_getFilter : decodeCommand 0b01110010000000000000000000000000#32 = some .getFilter := by decide
theorem test_decode_getStatus : decodeCommand 0b01110011000000000000000000000000#32 = some .getStatus := by decide
theorem test_decode_getDyn : decodeCommand 0b01110100000000000000000001010000#32 = some (.getDyn 80) := by decide
theorem test_decode_bvPush : decodeCommand 0b10000000000000000000011111111111#32 = some (.bvPush false 7 255) := by decide
theorem test_decode_bvPop : decodeCommand 0b10010000000000000000000000000000#32 = some .bvPop := by decide
theorem test_decode_bvSize : decodeCommand 0b10100000000000000000000000000000#32 = some .bvSize := by decide
theorem test_decode_bvCapacity : decodeCommand 0b10110000000000000000000000000000#32 = some .bvCapacity := by decide
theorem test_decode_bvMaxSize : decodeCommand 0b11000000000000000000000000000000#32 = some .bvMaxSize := by decide
theorem test_decode_bvEmpty : decodeCommand 0b11010000000000000000000000000000#32 = some .bvEmpty := by decide
theorem test_decode_bvRead : decodeCommand 0b11100000000000000000000001000001#32 = some (.bvRead 65) := by decide
theorem test_decode_midiCcFrame : decodeFrame [0b10110100#8, 0b00010000#8, 0b01000000#8] =
    some (.midiCcFrame 4 16 64) := by decide

/-- Bytes that form no frame: another status nibble, a data byte with bit 7 set, a wrong length (R108). -/
theorem test_decode_no_frame : decodeFrame [0x94, 0x10, 0x40] = none ∧ decodeFrame [0xB4, 0x90, 0x40] = none ∧
    decodeFrame [0xB4, 0x10, 0xC0] = none ∧ decodeFrame [0xB4, 0x10] = none := by decide

theorem test_decode_table_words : decodeTableWord 32 0x3001C80A = some (.setValue true 200 10) ∧
    decodeTableWord 24 0xB41040 = some (.midiCcFrame 4 16 64) ∧ decodeTableWord 32 0x20010000 = none := by decide

/-- F1 to F10. -/
theorem test_decode_illegal : ([0x00000000, 0xF0000000, 0x75000000, 0x10000001, 0x20010000, 0x30020000, 0x40010000,
    0x60000002, 0x74000080, 0xE0000080] : List Word).map decodeCommand = List.replicate 10 none := by decide

/-! ### One step each, from reset with `P_MIDI_CHANNEL = 5` unless said otherwise -/

/-- The reset state of 95_test_vectors.md: channel 5, an empty stream. -/
def on5 : State := State.resetWith 5 []

/-- A field of the state after one step that runs the command word `w`. -/
def after {α : Type} (s : State) (w : Nat) (f : State → α) : Option α :=
  match step (s.withFetchWord 32 w) with
  | .next t => some (f t)
  | .fault _ => none
  | .refused _ => none

/-- The dynamic entries of T6: DYN[3] = (1,3,50), DYN[7] = (1,7,90). -/
def withDyn (s : State) : State := (s.setDyn 3 ⟨true, 3, 50⟩).setDyn 7 ⟨true, 7, 90⟩

/-- A store of `size` entries in `cap` places, entry 0 being (1,7,90). -/
def withStore (s : State) (size cap : Nat) : State :=
  { s with ssData := s.ssData.setIfInBounds 0 ⟨true, 7, 90⟩, ssSize := BitVec.ofNat 8 size, ssCap := BitVec.ofNat 8 cap }

/-- T2. -/
theorem test_sync_filter : ([1, 5, 10, 16, 0, -3, 17, 255, 1000] : List Int).map syncFilter =
    [0xB0, 0xB4, 0xB9, 0xBF, 0xB0, 0xB0, 0xBF, 0xBF, 0xBF] := by decide +kernel

theorem test_readCc_P11 : after { on5 with rx := [0xB4, 0x80, 0xB4, 0x10, 0x40] } 0x10000000
    (fun t => (t.resp, t.rx, t.pstate)) = some (0x00000000, [0x10, 0x40], .idle) := by decide +kernel

theorem test_readCc_P17 : after
    { on5 with rx := [0xB4], timeline := [.arrive [], .arrive [], .arrive [0x10, 0x40]] } 0x10000000
    (fun t => (t.resp, t.rx, t.timeline)) = some (0x00011040, [], []) := by decide +kernel

/-- T1, the row C8 3F. -/
theorem test_toDmx_clamps_channel : after on5 0x2000C83F (·.resp) = some 0x00017F7E := by decide +kernel

/-- T1, the row 80 80. -/
theorem test_toDmx_clamps_both : after on5 0x20008080 (·.resp) = some 0x00017FFE := by decide +kernel

theorem test_setValue_S10 : after { on5 with gain := 512 } 0x300104FF (fun t => (t.out, slotAt t.dyn 4)) =
    some ([⟨4, 127⟩], ⟨true, 4, 255⟩) := by decide +kernel

theorem test_setValue_S8 : after on5 0x30018001 (fun t => (t.out, t.dyn)) = some ([], on5.dyn) := by decide +kernel

theorem test_setGain_G3 : after (withDyn on5) 0x400003FA (fun t => (t.gain, t.out)) =
    some (1018, [⟨3, 49⟩, ⟨7, 89⟩]) := by decide +kernel

theorem test_setGain_G2 : after (withDyn on5) 0x400003FB (fun t => (t.gain, t.out)) = some (1024, []) := by
  decide +kernel

theorem test_staticAppend_A1 : after on5 0x5000075A (fun t => (slotAt t.ssData 0, t.ssSize, t.out)) =
    some (⟨true, 7, 90⟩, 1, []) := by decide +kernel

theorem test_staticAppend_A2 : after on5 0x5000C85A (fun t => (t.ssData, t.ssSize)) = some (on5.ssData, 0) := by
  decide +kernel

theorem test_switchScene_W3 : after (withStore (on5.setDyn 3 ⟨true, 3, 50⟩) 1 16) 0x60000000
    (fun t => (t.activeDyn, t.out)) = some (false, [⟨3, 0⟩, ⟨7, 90⟩]) := by decide +kernel

theorem test_switchScene_W8 : after
    { withStore (on5.setDyn 3 ⟨true, 3, 60⟩) 1 16 with gain := 512, activeDyn := false } 0x60000001
    (fun t => (t.activeDyn, t.out)) = some (true, [⟨7, 0⟩, ⟨3, 30⟩]) := by decide +kernel

theorem test_getGain_Q1 : after on5 0x70000000 (·.resp) = some 0x00000400 := by decide +kernel
theorem test_getScene_Q2 : after on5 0x71000000 (·.resp) = some 0x00000001 := by decide +kernel
theorem test_getFilter_Q3 : after on5 0x72000000 (·.resp) = some 0x000000B4 := by decide +kernel

/-- F12. -/
theorem test_getStatus_keeps_bits : after { on5 with status := 1 } 0x73000000 (fun t => (t.resp, t.status)) =
    some (1, 1) := by decide +kernel

theorem test_getDyn_Q6 : after (withDyn on5) 0x74000003 (·.resp) = some 0x00010332 := by decide +kernel

theorem test_bvPush_V5 : after (withStore on5 16 16) 0x80010102 (fun t => (t.ssSize, t.ssCap, slotAt t.ssData 16)) =
    some (17, 32, ⟨true, 1, 2⟩) := by decide +kernel

theorem test_bvPush_V12 : after on5 0x800007FF (fun t => (t.ssSize, slotAt t.ssData 0)) = some (1, ⟨false, 0, 0⟩) := by
  decide +kernel

theorem test_bvPop_V9 : after (withStore on5 17 32) 0x90000000 (fun t => (t.ssSize, t.ssCap, slotAt t.ssData 16)) =
    some (16, 32, ⟨false, 0, 0⟩) := by decide +kernel

theorem test_bvPop_V2 : after on5 0x90000000 (fun t => (t.ssSize, t.ssCap, t.status)) = some (0, 16, 0) := by
  decide +kernel

/-- V1. -/
theorem test_bvSize : after on5 0xA0000000 (·.resp) = some 0 := by decide +kernel
theorem test_bvCapacity : after on5 0xB0000000 (·.resp) = some 0x10 := by decide +kernel
theorem test_bvMaxSize : after on5 0xC0000000 (·.resp) = some 0x80 := by decide +kernel
theorem test_bvEmpty : after on5 0xD0000000 (·.resp) = some 1 := by decide +kernel

theorem test_bvRead_V3 : after (withStore on5 1 16) 0xE0000000 (·.resp) = some 0x0001075A := by decide +kernel

theorem test_bvRead_V10 : after (withStore on5 1 16) 0xE0000001 (fun t => (t.resp, t.status)) = some (0, 2) := by
  decide +kernel

/-- E3's bytes arrive. -/
theorem test_midiCcFrame_arrives : step (on5.withFetchWord 24 0xB41040) = .next { on5 with rx := [0xB4, 0x10, 0x40] } := rfl

/-- F4: RX is untouched. -/
theorem test_illegal_F4 : after { on5 with rx := [0xB4, 0x10, 0x40], resp := 7 } 0x10000001
    (fun t => (t.resp, t.status, t.rx)) = some (0, 1, [0xB4, 0x10, 0x40]) := by decide +kernel

/-! ### Witnesses: the hypotheses of each statement can be met, at the limits of their ranges -/

theorem inv_on5 : on5.Inv := by
  refine ⟨by decide, by decide, by decide, ?_, ⟨by decide, by decide⟩, ?_, ?_, rfl⟩
  · intro i hi; left; simp [on5, State.resetWith, slotAt_replicate]
  · intro i _; simp [on5, State.resetWith, slotAt_replicate]
  · intro i _; simp [on5, State.resetWith, slotAt_replicate]

/-- A store of `n` unset entries within the bounds. -/
def unsetStore (n cap : Nat) : State := { on5 with ssSize := BitVec.ofNat 8 n, ssCap := BitVec.ofNat 8 cap }

/-- StaticAppendAppendsOrSkips and BvPushAppendsGrowsOrDrops: an empty store, one about to grow, the last free place, the
ceiling. -/
theorem witness_bounds_empty : (unsetStore 0 16).StoreBounds := ⟨by decide, by decide⟩
theorem witness_bounds_full_16 : (unsetStore 16 16).StoreBounds := ⟨by decide, by decide⟩
theorem witness_bounds_last : (unsetStore 127 128).StoreBounds := ⟨by decide, by decide⟩
theorem witness_bounds_ceiling : (unsetStore 128 128).StoreBounds := ⟨by decide, by decide⟩

theorem inv_store_127 : (unsetStore 127 128).Inv := by
  refine ⟨by decide, by decide, by decide, inv_on5.dyn_indexed, witness_bounds_last, ?_, inv_on5.store_unset, rfl⟩
  intro i _; simp [unsetStore, on5, State.resetWith, slotAt_replicate]

/-- The reset state with one action to come. -/
def facing (a : PortAction) : State := { on5 with timeline := [a] }

theorem witness_DecodeThenEncodeGivesAction_command : decodeAction (.command 0x3001FFFF#32) = some (.setValue true 255 255) := by decide
theorem witness_DecodeThenEncodeGivesAction_frame : decodeAction (.arrive [0xBF, 0x7F, 0x7F]) = some (.midiCcFrame 15 127 127) := by decide

theorem witness_CommandRowsNeverOverlap : ∃ (h : 17 < commandRows.length), commandRows[17].selects 0xE000007F#32 = true :=
  ⟨by decide, by decide⟩

theorem witness_reserved_op0 : reservedWord 0x00000000#32 := trivial
theorem witness_reserved_opF : reservedWord 0xFFFFFFFF#32 := trivial
theorem witness_reserved_sel5 : reservedWord 0x75000000#32 := trivial
theorem witness_reserved_selF : reservedWord 0x7F000000#32 := trivial
theorem witness_reserved_readCc : reservedWord 0x10000001#32 ∧ reservedWord 0x18000000#32 :=
  ⟨show _ ≠ _ by decide, show _ ≠ _ by decide⟩
theorem witness_reserved_toDmx : reservedWord 0x20010000#32 ∧ reservedWord 0x28000000#32 :=
  ⟨show _ ≠ _ by decide, show _ ≠ _ by decide⟩
theorem witness_reserved_setValue : reservedWord 0x30020000#32 ∧ reservedWord 0x88000000#32 :=
  ⟨show _ ≠ _ by decide, show _ ≠ _ by decide⟩
theorem witness_reserved_switchScene : reservedWord 0x60000002#32 := show _ ≠ _ by decide
theorem witness_reserved_query : reservedWord 0x70000001#32 ∧ reservedWord 0x74000080#32 :=
  ⟨show _ ≠ _ by decide, show _ ≠ _ by decide⟩
theorem witness_reserved_bvRead : reservedWord 0xE0000080#32 := show _ ≠ _ by decide

theorem witness_AssembledLinesDecode : (AsmLine.bvRead 127).wellFormed = true ∧ (AsmLine.bvRead 128).wellFormed = false := by decide

theorem witness_StepRunsDecodedInstruction : (facing (.command 0x7400007F#32)).timeline = [.command 0x7400007F#32] ∧
    decodeAction (.command 0x7400007F#32) = some (.getDyn 127) := by decide

theorem witness_ReservedWordSetsStatusBitZero : (facing (.command 0x20010000#32)).timeline = [.command 0x20010000#32] ∧
    reservedWord 0x20010000#32 := ⟨rfl, witness_reserved_toDmx.1⟩

theorem witness_IdleBlockHoldsItsState : on5.timeline = [] := rfl
theorem witness_ArrivalAppendsItsBytesInOrder : (facing (.arrive [0xB4])).timeline = [.arrive [0xB4]] := rfl
theorem witness_ResetSetsEveryResetValue : (facing (.reset 17)).timeline = [.reset 17] := rfl

/-- A state that meets the invariant and whose next action is the command `w`. -/
theorem inv_facing (a : PortAction) : (facing a).Inv :=
  inv_on5.congr rfl inv_on5.gain_legal inv_on5.status_reserved rfl rfl rfl rfl rfl

theorem witness_StepKeepsBlockInvariant : ∃ t, (facing (.command 0x8001FFFF#32)).Inv ∧
    step (facing (.command 0x8001FFFF#32)) = .next t := ⟨_, inv_facing _, rfl⟩

theorem witness_InstructionsWriteOnlyTheirColumns : ∃ t, exec (.switchScene false) (withDyn on5) = .next t := ⟨_, rfl⟩

/-- A step that keeps STATUS, one that sets bit 0, one that sets bit 1. -/
theorem witness_StatusRecordsExactlyTwoFaults_kept : ∃ t, (facing (.command 0x70000000#32)).resetNext = false ∧
    step (facing (.command 0x70000000#32)) = .next t := ⟨_, rfl, rfl⟩
theorem witness_StatusRecordsExactlyTwoFaults_illegal : ∃ t, (facing (.command 0#32)).resetNext = false ∧
    step (facing (.command 0#32)) = .next t ∧ t.status = 1 := ⟨_, rfl, rfl, rfl⟩
theorem witness_StatusRecordsExactlyTwoFaults_bvIndex : ∃ t, (facing (.command 0xE0000000#32)).resetNext = false ∧
    step (facing (.command 0xE0000000#32)) = .next t ∧ t.status = 2 := ⟨_, rfl, rfl, rfl⟩

/-- A set channel exists while a further SET_VALUE runs. -/
theorem witness_SetChannelsAndCapacityStay : ∃ t, (withDyn (facing (.command 0x30010334#32))).resetNext = false ∧
    step (withDyn (facing (.command 0x30010334#32))) = .next t ∧
    (slotAt (withDyn (facing (.command 0x30010334#32))).dyn 7).set = true :=
  ⟨_, rfl, rfl, by decide +kernel⟩

theorem witness_OutputHistoryOnlyGrows : ∃ t, (facing (.command 0x30010332#32)).resetNext = false ∧
    step (facing (.command 0x30010332#32)) = .next t ∧ t.out ≠ [] := ⟨_, rfl, rfl, by decide +kernel⟩

theorem witness_CommandsCommuteWithArrivals : ∃ t, isCommand (.setGain 900) = true ∧ Instr.setGain 900 ≠ .readCc ∧
    exec (.setGain 900) (withDyn on5) = .next t := ⟨_, rfl, by decide, rfl⟩

theorem witness_FaultRecordNeverInfluencesCommands : ∃ t, Instr.bvRead 0 ≠ .getStatus ∧ exec (.bvRead 0) on5 = .next t :=
  ⟨_, by decide, rfl⟩

theorem witness_FilterComputedAtResetOnly_kept : ∃ t, step (facing (.command 0x10000000#32)) = .next t ∧
    (facing (.command 0x10000000#32)).resetNext = false := ⟨_, rfl, rfl⟩
theorem witness_FilterComputedAtResetOnly_reset (p : Int) : ∃ t, step (facing (.reset p)) = .next t ∧
    (facing (.reset p)).timeline = [.reset p] := ⟨_, rfl, rfl⟩

theorem witness_ReadCcRecoversArrivedFrame : on5.Inv ∧ on5.quiet = true ∧ on5.rx = [] := ⟨inv_on5, rfl, rfl⟩

/-- P8: a skipped byte, the largest data bytes, a byte kept. -/
theorem witness_ReadCcRecoversMessage : ({ on5 with rx := [0x00, 0xB4, 0x7F, 0x7F, 0x55] } : State).quiet = true ∧
    ([0x00, 0xB4, 0x7F, 0x7F, 0x55] : List Byte) = [0x00] ++ on5.filter :: 0x7F :: 0x7F :: [0x55] ∧
    on5.filter ∉ ([0x00] : List Byte) ∧ (0x7F#8).toNat ≤ 127 := by decide

/-- P3 and P2. -/
theorem witness_ReadCcScansPastEverything : on5.quiet = true ∧ on5.filter ∉ ([0x01, 0x02, 0x03] : List Byte) ∧
    on5.filter ∉ ([] : List Byte) := by decide

/-- P4 and P5. -/
theorem witness_ReadCcLosesEarlySync : ([0xB4, 0x10] : List Byte) = [] ++ on5.filter :: [0x10] ∧ ([0x10] : List Byte).length < 2 ∧
    ([0xB4] : List Byte) = [] ++ on5.filter :: [] ∧ on5.filter ∉ ([] : List Byte) := by decide

/-- P6, P7 and P10. -/
theorem witness_ReadCcDropsMalformedMessage : ([0xB4, 0x90, 0x40] : List Byte) = [] ++ on5.filter :: 0x90 :: 0x40 :: [] ∧
    128 ≤ (0x90#8).toNat ∧ ([0xB4, 0x10, 0x80] : List Byte) = [] ++ on5.filter :: 0x10 :: 0x80 :: [] ∧
    128 ≤ (0x80#8).toNat ∧ on5.filter ∉ ([] : List Byte) := by decide

theorem witness_ReadCcResponseIsNoneOrMessage : ∃ t, exec .readCc on5 = .next t := ⟨_, rfl⟩

/-- P17 and P18. -/
theorem witness_ArrivalBeforeCountCompletesMessage : ∃ s : State, s.rx = [s.filter] ∧
    s.timeline = .arrive [] :: .arrive [] :: .arrive [(0x10#7).setWidth 8, (0x40#7).setWidth 8] :: [] ∧
    ({ s with timeline := [] } : State).quiet = true :=
  ⟨{ on5 with rx := [on5.filter], timeline := [.arrive [], .arrive [], .arrive [0x10, 0x40]] }, rfl, by decide, rfl⟩
theorem witness_ArrivalAfterCountIsTooLate : ∃ s : State, s.rx = [s.filter] ∧
    s.timeline = .arrive [] :: .arrive [] :: .arrive [] :: .arrive [0x10, 0x40] :: [] :=
  ⟨{ on5 with rx := [on5.filter], timeline := [.arrive [], .arrive [], .arrive [], .arrive [0x10, 0x40]] }, rfl, rfl⟩

/-- The decode clauses of ToDmx, SetValue, SetGain, StaticAppend, SwitchScene, BvPush, BvRead and GetDyn. -/
theorem witness_masked_words : (0x2000FFFF#32 &&& 0xFFFF0000#32 = 0x20000000#32) ∧
    (0x3001FFFF#32 &&& 0xFFFE0000#32 = 0x30000000#32) ∧ (0x4000FFFF#32 &&& 0xFFFF0000#32 = 0x40000000#32) ∧
    (0x5000FFFF#32 &&& 0xFFFF0000#32 = 0x50000000#32) ∧ (0x60000001#32 &&& 0xFFFFFFFE#32 = 0x60000000#32) ∧
    (0x8001FFFF#32 &&& 0xFFFE0000#32 = 0x80000000#32) ∧ (0xE000007F#32 &&& 0xFFFFFF80#32 = 0xE0000000#32) ∧
    (0x7400007F#32 &&& 0xFFFFFF80#32 = 0x74000000#32) := by decide

theorem witness_ScalerIsExactFixedPoint : (1024#11).toNat = 1024 ∧ (0#11).toNat ≤ 1024 ∧ (0#11).toNat = 0 := by decide

/-- Channels 127 and 128 meet different clauses, and so do S = 0 and S = 1. -/
theorem witness_SetValueWritesAndEmitsChanges : ((false = false) ∨ 127 < (3#8).toNat) ∧ ((true = false) ∨ 127 < (128#8).toNat) ∧
    (127#8).toNat < 128 ∧ (0#8).toNat < 128 := by decide

theorem witness_RepeatedSetValueIsSilent : ∃ t, exec (.setValue true 127 254) on5 = .next t := ⟨_, rfl⟩

/-- Differences of 5 and 6 on both sides of the stored gain 1024. -/
theorem witness_SetGainResendsOutsideDeadZone : (((1019#16).toNat : Int) - on5.gain.toNat).natAbs ≤ 5 ∧
    (((1029#16).toNat : Int) - on5.gain.toNat).natAbs ≤ 5 ∧ (((1018#16).toNat : Int) - on5.gain.toNat).natAbs > 5 ∧
    (((1030#16).toNat : Int) - on5.gain.toNat).natAbs > 5 := by decide

theorem witness_SetGainAtUnityCorners : on5.gain.toNat = 1024 ∧ 1019 ≤ (1019#16).toNat ∧ (1029#16).toNat ≤ 1029 ∧
    1030 ≤ (1030#16).toNat ∧ 1030 ≤ (65535#16).toNat := by decide

/-- E7: channel 3 is set in the old scene only. -/
theorem witness_SwitchLeavesOldChannelsDark : ∃ s t : State, false ≠ s.activeDyn ∧ exec (.switchScene false) s = .next t ∧
    (∃ x ∈ s.activeScene, x.set = true ∧ x.ch = 3) ∧ (∀ x ∈ t.activeScene, x.set = true → x.ch ≠ 3) :=
  ⟨withStore (on5.setDyn 3 ⟨true, 3, 50⟩) 1 16, _, by decide +kernel, rfl, by decide +kernel, by decide +kernel⟩

/-- A store of one entry, which no entry follows. -/
theorem witness_LastStaticEntryWins : ∃ s t : State, s.activeDyn = true ∧ exec (.switchScene false) s = .next t ∧
    s.staticScene = [] ++ ⟨true, 7, 90⟩ :: [] ∧ (∀ y ∈ ([] : List Slot), y.set = true → y.ch ≠ 7) :=
  ⟨withStore on5 1 16, _, rfl, rfl, by decide +kernel, by simp⟩

/-- S11. -/
theorem witness_HiddenWritesAppearAtSwitch : ∃ s t u : State, s.Inv ∧ s.activeDyn = false ∧ (127#8).toNat ≤ 127 ∧
    exec (.setValue true 127 100) s = .next t ∧ exec (.switchScene true) t = .next u :=
  ⟨{ on5 with activeDyn := false }, _, _, inv_on5.congr rfl inv_on5.gain_legal inv_on5.status_reserved rfl rfl rfl rfl rfl,
    rfl, by decide, rfl, rfl⟩

theorem witness_PopUndoesPush : ∃ t u : State, (unsetStore 127 128).Inv ∧ (unsetStore 127 128).ssSize.toNat < 128 ∧
    exec (.bvPush true 255 255) (unsetStore 127 128) = .next t ∧ exec .bvPop t = .next u :=
  ⟨_, _, inv_store_127, by decide, rfl, rfl⟩

/-- The last index below SS_SIZE and the first at it. -/
theorem witness_BvReadAnswersSlotOrFaults : (126#7).toNat < (unsetStore 127 128).ssSize.toNat ∧
    (unsetStore 127 128).ssSize.toNat ≤ (127#7).toNat ∧ on5.ssSize.toNat ≤ (0#7).toNat := by decide

theorem witness_ReadAfterPushAnswersPushedSlot : ∃ t : State, (unsetStore 127 128).StoreBounds ∧
    (unsetStore 127 128).ssSize.toNat = (127#7).toNat ∧ exec (.bvPush true 7 90) (unsetStore 127 128) = .next t :=
  ⟨_, witness_bounds_last, by decide, rfl⟩

theorem witness_GetDynReadsBackSetValue : ∃ t u : State, (127#8).toNat ≤ 127 ∧ exec (.setValue true 127 9) on5 = .next t ∧
    exec (.getDyn 127) t = .next u ∧ (127#7).toNat = (127#8).toNat ∧ (0#7).toNat ≠ (127#8).toNat :=
  ⟨_, _, by decide, rfl, rfl, by decide, by decide⟩

theorem witness_QueriesAreIdempotent : ∃ t u : State, isQuery (.getDyn 127) = true ∧ exec (.getDyn 127) on5 = .next t ∧
    (0#7).toNat < (withStore on5 1 16).ssSize.toNat ∧ exec (.bvRead 0) (withStore on5 1 16) = .next u :=
  ⟨_, _, rfl, rfl, by decide, rfl⟩

/-- P8 and P3 for POLL. -/
theorem witness_PollFeedsSceneEngine : on5.quiet = true ∧ on5.filter ∉ ([0x00] : List Byte) ∧
    ([0x00, 0xB4, 0x10, 0x7F] : List Byte) = [0x00] ++ on5.filter :: (0x10#7).setWidth 8 :: (0x7F#7).setWidth 8 :: [] ∧
    ({ on5 with rx := [0x00] } : State).rx = [0x00] := by decide

/-- P4 (lost sync), P6 (malformed) and P2 (nothing to scan): READ_CC without a message. -/
theorem witness_PollFeedsSceneEngine_none : ∃ t u v : State,
    exec .readCc { on5 with rx := [0xB4, 0x10] } = .next t ∧ t.resp.getLsbD 16 = false ∧
    exec .readCc { on5 with rx := [0xB4, 0x90, 0x40] } = .next u ∧ u.resp.getLsbD 16 = false ∧
    exec .readCc on5 = .next v ∧ v.resp.getLsbD 16 = false := ⟨_, _, _, rfl, rfl, rfl, rfl, rfl, rfl⟩

/-- P17: a message whose data bytes arrive during the READ_CC. -/
theorem witness_PollFeedsSceneEngine_message : ∃ t : State,
    exec .readCc { on5 with rx := [0xB4], timeline := [.arrive [], .arrive [], .arrive [0x10, 0x40]] } = .next t ∧
    t.resp = BitVec.ofNat 32 (0x10000 + (0x10#7).toNat * 256 + (0x40#7).toNat) := ⟨_, rfl, by decide +kernel⟩

theorem witness_SetStaticSceneAppendsLists : on5.Inv := inv_on5

end Sys2Proof.Tests
end

/-! PROOFS of the family 10_state.md: what an executed instruction can do (`ExecEffect`), the invariant of the block,
the access table R49 and the step statements drawn from it, and the independence from STATUS and RESP. -/

namespace Sys2Proof.Machine

variable {s t : State} {i : Instr}

/-! ### What an executed instruction can do -/

/-- The ways an instruction `i` can take `s` to a next state: the operations of `Machine/Ops.lean` and
`Machine/Scene.lean` by name, with the guards under which they are reached. -/
inductive ExecEffect (s : State) : Instr → State → Prop where
  /-- READ_CC runs the parser. -/
  | readCc {t : State} (run : execReadCc s = .next t) : ExecEffect s .readCc t
  /-- A command that only answers: a query, a conversion, or a scene or store command that is a no-op. -/
  | answer {i : Instr} (command : isCommand i = true) (w : Word) : ExecEffect s i (s.respond w)
  /-- BV_READ at or beyond SS_SIZE (60_exceptions.md R283). -/
  | indexFault (x : BitVec 7) (beyond : s.ssSize.toNat ≤ x.toNat) : ExecEffect s (.bvRead x) (s.raiseFault .bvIndex)
  /-- SET_VALUE, filtered or not. -/
  | setValue (set : Bool) (c x : BitVec 8) :
      ExecEffect s (.setValue set c x) ((s.setValue (slotOperand set c x)).respond respNone)
  /-- SET_GAIN outside the dead zone. -/
  | setGain (g : BitVec 16) (outside : outsideDeadZone g s.gain = true) :
      ExecEffect s (.setGain g) ((s.acceptGain g).respond respNone)
  /-- STATIC_APPEND of an accepted channel. -/
  | staticAppend (a b : BitVec 8) (accepted : channelAccepted a = true) :
      ExecEffect s (.staticAppend a b) ((s.bvPush (makeSlot a b)).respond respNone)
  /-- SWITCH_SCENE to the scene that is not active. -/
  | switchScene (d : Bool) (flips : d ≠ s.activeDyn) :
      ExecEffect s (.switchScene d) ((s.flipScene d).respond respNone)
  /-- BV_PUSH. -/
  | bvPush (set : Bool) (c x : BitVec 8) :
      ExecEffect s (.bvPush set c x) ((s.bvPush (slotOperand set c x)).respond respNone)
  /-- BV_POP. -/
  | bvPop : ExecEffect s .bvPop (s.bvPop.respond respNone)
  /-- The arrival of a frame. -/
  | frame (n : BitVec 4) (c v : BitVec 7) : ExecEffect s (.midiCcFrame n c v) (s.rxAppend (encodeFrame n c v))

theorem exec_effect (h : exec i s = .next t) : ExecEffect s i t := by
  cases i with
  | readCc => exact .readCc h
  | setValue set c x => cases h; exact .setValue set c x
  | bvPush set c x => cases h; exact .bvPush set c x
  | bvPop => cases h; exact .bvPop
  | midiCcFrame n c v => cases h; exact .frame n c v
  | setGain g =>
    cases h
    split
    · next outside => exact .setGain g outside
    · exact .answer rfl _
  | staticAppend a b =>
    cases h
    split
    · next accepted => exact .staticAppend a b accepted
    · exact .answer rfl _
  | switchScene d =>
    cases h
    split
    · exact .answer rfl _
    · next flips => exact .switchScene d flips
  | bvRead x =>
    simp only [exec, execBvRead] at h
    split at h
    · cases h; exact .answer rfl _
    · next beyond => cases h; exact .indexFault x (Nat.le_of_not_lt beyond)
  | toDmx | getGain | getScene | getFilter | getStatus | getDyn | bvSize | bvCapacity | bvMaxSize | bvEmpty =>
    cases h; exact .answer rfl _

/-! ### The gain and scene commands as one register write and one run of events -/

theorem acceptGain_eq (s : State) (g : BitVec 16) : s.acceptGain g =
    (s.setGainReg (min g.toNat 1024)).emitAll (resendEvents (BitVec.ofNat 11 (min g.toNat 1024)) s.activeScene) := rfl

/-- The blackout walks the scene that was active, the resend the one that is active after the flip. -/
theorem flipScene_eq {d : Bool} (flips : d ≠ s.activeDyn) : s.flipScene d =
    (s.setActive d).emitAll (blackoutEvents s.activeScene ++ resendEvents s.gain (s.setActive d).activeScene) := by
  have hactive : s.activeDyn = !d := by cases d <;> simpa using flips.symm
  cases d <;>
    simp [State.flipScene, State.blackout, State.resend, State.emitAll, State.activeScene, hactive,
      State.setActive, State.dynScene, State.staticScene]

theorem activeScene_length_le (s : State) : s.activeScene.length ≤ 128 := by
  unfold State.activeScene
  split
  · exact (dynScene_length s).le
  · exact staticScene_length_le s

theorem resendEvents_length_le (gain : BitVec 11) (s : State) : (resendEvents gain s.activeScene).length ≤ 128 := by
  rw [resendEvents_eq]
  exact (litEvents_length _ _).trans (activeScene_length_le s)

theorem blackoutEvents_length_le (s : State) : (blackoutEvents s.activeScene).length ≤ 128 :=
  (darkEvents_length _).trans (activeScene_length_le s)

/-! ### Reset and the invariant -/

theorem syncFilter_range (p : Int) : 0xB0 ≤ (syncFilter p).toNat ∧ (syncFilter p).toNat ≤ 0xBF := by
  by_cases hlow : p < 1
  · rw [syncFilter_low hlow]; decide
  · by_cases hhigh : 16 < p
    · rw [syncFilter_high hhigh]; decide
    · have hmid := syncFilter_mid (p := p) (by omega) (by omega)
      omega

theorem slotAt_replicate_default (i : Nat) : slotAt (Vector.replicate 128 .default) i = .default := by
  rw [slotAt_replicate, ite_self]

theorem State.inv_resetWith (p : Int) (rx : List Byte) : (State.resetWith p rx).Inv where
  filter_legal := syncFilter_range p
  gain_legal := Nat.le_refl 1024
  status_reserved := Nat.zero_lt_succ 3
  dyn_indexed i _ := .inl (slotAt_replicate_default i)
  store_bounds := ⟨.inl rfl, Nat.zero_le 16⟩
  store_vacant i _ := slotAt_replicate_default i
  store_unset i _ := slotAt_replicate_default i
  parser_idle := rfl

/-- Settles O14: reset is `State.resetWith`, at the configured channel or at any other. -/
theorem resetMeetsBlockInvariant : Obligations.ResetMeetsBlockInvariant :=
  ⟨State.inv_resetWith _ [], State.inv_resetWith⟩

/-! ### The operations keep the invariant -/

theorem State.Inv.withTimeline (h : s.Inv) (rest : List PortAction) : ({ s with timeline := rest } : State).Inv :=
  h.congr rfl h.gain_legal h.status_reserved rfl rfl rfl rfl h.parser_idle

theorem State.Inv.rxAppend (h : s.Inv) (bytes : List Byte) : (s.rxAppend bytes).Inv :=
  h.congr rfl h.gain_legal h.status_reserved rfl rfl rfl rfl h.parser_idle

theorem State.Inv.setActive (h : s.Inv) (d : Bool) : (s.setActive d).Inv :=
  h.congr rfl h.gain_legal h.status_reserved rfl rfl rfl rfl h.parser_idle

theorem State.Inv.setGainReg (h : s.Inv) {v : Nat} (hv : v ≤ 1024) : (s.setGainReg v).Inv := by
  refine h.congr rfl ?_ h.status_reserved rfl rfl rfl rfl h.parser_idle
  rw [State.setGainReg_gain, BitVec.toNat_ofNat]
  exact (Nat.mod_le _ _).trans hv

/-- READ_CC changes no field of the invariant but PSTATE, which it leaves IDLE. -/
theorem State.Inv.readCc (h : s.Inv) (run : execReadCc s = .next t) : t.Inv := by
  rw [(execReadCc_cases run).2]
  exact h.congr rfl h.gain_legal h.status_reserved rfl rfl rfl rfl rfl

theorem State.inv_applyReset (s : State) (p : Int) : (s.applyReset p).Inv :=
  (State.inv_resetWith p s.rx).withTimeline s.timeline

/-- An unset slot operand is DEFAULT, so a push stores no other unset slot (10_state.md R45). -/
theorem slotOperand_unset {set : Bool} {c x : BitVec 8} (h : (slotOperand set c x).set = false) :
    slotOperand set c x = .default := by
  cases set with
  | false => rfl
  | true => cases h

theorem ExecEffect.inv (effect : ExecEffect s i t) (h : s.Inv) : t.Inv := by
  cases effect with
  | readCc run => exact h.readCc run
  | answer _ w => exact h.respond w
  | indexFault => exact h.raiseFault .bvIndex
  | setValue set c x => exact (h.setValue _).respond _
  | setGain g =>
    rw [acceptGain_eq]
    exact ((h.setGainReg (Nat.min_le_right _ _)).emitAll _).respond _
  | staticAppend a b => exact (h.bvPush _ (fun unset => by cases unset)).respond _
  | switchScene d flips =>
    rw [flipScene_eq flips]
    exact ((h.setActive d).emitAll _).respond _
  | bvPush => exact (h.bvPush _ slotOperand_unset).respond _
  | bvPop => exact h.bvPop.respond _
  | frame => exact h.rxAppend _

/-- Settles O13, by the kinds of step: each is a named operation that keeps the invariant. -/
theorem stepKeepsBlockInvariant : Obligations.StepKeepsBlockInvariant := by
  intro s t h hstep
  rcases step_cases hstep with ⟨-, rfl⟩ | ⟨_, rest, i, -, -, hexec⟩ | ⟨_, rest, -, -, rfl⟩ | ⟨bytes, rest, -, -, rfl⟩ |
    ⟨p, rest, -, rfl⟩
  · exact h
  · exact (exec_effect hexec).inv (h.withTimeline rest)
  · exact (h.withTimeline rest).raiseFault .illegal
  · exact (h.withTimeline rest).rxAppend bytes
  · exact State.inv_applyReset _ p

/-! ### The access table (10_state.md R49) -/

/-- Settles O15, by the instruction's effect: each operation writes the fields its lemmas in `Laws/State.lean` leave
out. -/
theorem instructionsWriteOnlyTheirColumns : Obligations.InstructionsWriteOnlyTheirColumns := by
  intro i s t h
  cases exec_effect h with
  | readCc run =>
    obtain ⟨-, same⟩ := execReadCc_cases run
    rw [same]
    simp [isCommand]
  | answer command w => simp [command]
  | indexFault => simp [isCommand]
  | setValue => simp [isCommand]
  | setGain => simp [acceptGain_eq, isCommand]
  | staticAppend => simp [isCommand]
  | switchScene d flips => simp [flipScene_eq flips, isCommand]
  | bvPush => simp [isCommand]
  | bvPop => simp [isCommand]
  | frame => simp

/-! ### Steps other than a reset -/

/-- Unless the next action is a reset, a step executes an instruction or touches only STATUS, RESP, RX and the
timeline. -/
theorem step_exec_or_registers_stay (hr : s.resetNext = false) (h : step s = .next t) :
    (∃ rest i, exec i { s with timeline := rest } = .next t) ∨
      t = { s with status := t.status, resp := t.resp, rx := t.rx, timeline := t.timeline } := by
  rcases step_cases h with ⟨-, rfl⟩ | ⟨_, rest, i, -, -, hexec⟩ | ⟨_, _, -, -, rfl⟩ | ⟨_, _, -, -, rfl⟩ |
    ⟨p, rest, htime, -⟩
  · exact .inr rfl
  · exact .inl ⟨rest, i, hexec⟩
  · exact .inr rfl
  · exact .inr rfl
  · rw [State.resetNext, htime] at hr
    cases hr

/-! ### DYN and SS_CAP (10_state.md R35, R38) -/

theorem setValue_keeps_set (x : Slot) {j : Nat} (h : (slotAt s.dyn j).set = true) :
    (slotAt (s.setValue x).dyn j).set = true := by
  rw [setValue_dyn]
  split
  · next accepted =>
    by_cases hj : x.ch.toNat = j
    · subst hj
      rw [slotAt_write_same (by omega)]
      exact accepted.1
    · rwa [slotAt_write_other hj]
  · exact h

theorem exec_keeps_set (h : exec i s = .next t) {j : Nat} (hset : (slotAt s.dyn j).set = true) :
    (slotAt t.dyn j).set = true := by
  obtain ⟨-, -, -, same | ⟨set, c, x, rfl⟩, -⟩ := instructionsWriteOnlyTheirColumns i s t h
  · rwa [same]
  · cases h
    exact setValue_keeps_set _ hset

theorem ssCap_le_bvPush (s : State) (v : Slot) : s.ssCap.toNat ≤ (s.bvPush v).ssCap.toNat := by
  rw [State.bvPush, State.bvStore_ssCap]
  unfold State.bvGrow
  split
  · next full =>
    have hbelow : s.ssCap.toNat < 128 := full.2
    simp only [Config.bvMax, BitVec.toNat_ofNat]
    omega
  · exact le_rfl

theorem ssCap_le_exec (h : exec i s = .next t) : s.ssCap.toNat ≤ t.ssCap.toNat := by
  obtain ⟨-, -, -, -, -, same | ⟨a, b, rfl⟩ | ⟨set, c, x, rfl⟩, -⟩ := instructionsWriteOnlyTheirColumns i s t h
  · rw [same]
  · cases exec_effect h with
    | answer => exact le_rfl
    | staticAppend => exact ssCap_le_bvPush s _
  · cases h
    exact ssCap_le_bvPush s _

/-- Settles O17: among instructions only SET_VALUE writes DYN, with a set slot, and only a push writes SS_CAP, which
grows. -/
theorem setChannelsAndCapacityStay : Obligations.SetChannelsAndCapacityStay := by
  intro s t hr hstep
  rcases step_exec_or_registers_stay hr hstep with ⟨rest, i, hexec⟩ | same
  · exact ⟨fun _ => exec_keeps_set hexec, ssCap_le_exec (s := { s with timeline := rest }) hexec⟩
  · rw [same]
    exact ⟨fun _ hset => hset, le_rfl⟩

/-! ### OUT (10_state.md R44) -/

theorem setValue_out (s : State) (x : Slot) :
    ∃ events, (s.setValue x).out = s.out ++ events ∧ events.length ≤ 1 := by
  unfold State.setValue
  split
  · refine ⟨_, rfl, ?_⟩
    unfold setValueEvents
    split <;> simp
  · exact ⟨[], (List.append_nil _).symm, Nat.zero_le 1⟩

theorem exec_out (h : exec i s = .next t) : ∃ events, t.out = s.out ++ events ∧ events.length ≤ 256 := by
  have unchanged (hout : t.out = s.out) : ∃ events, t.out = s.out ++ events ∧ events.length ≤ 256 :=
    ⟨[], by rw [hout, List.append_nil], Nat.zero_le 256⟩
  obtain ⟨-, -, -, -, -, -, -, -, -, same | ⟨set, c, x, rfl⟩ | ⟨g, rfl⟩ | ⟨d, rfl⟩, -⟩ :=
    instructionsWriteOnlyTheirColumns i s t h
  · exact unchanged same
  · cases h
    obtain ⟨events, hout, hlen⟩ := setValue_out s (slotOperand set c x)
    exact ⟨events, hout, by omega⟩
  · cases exec_effect h with
    | answer => exact unchanged rfl
    | setGain =>
      rw [acceptGain_eq]
      exact ⟨_, rfl, (resendEvents_length_le _ s).trans (by decide)⟩
  · cases exec_effect h with
    | answer => exact unchanged rfl
    | switchScene _ flips =>
      rw [flipScene_eq flips]
      refine ⟨_, rfl, ?_⟩
      rw [List.length_append]
      exact Nat.add_le_add (blackoutEvents_length_le s) (resendEvents_length_le s.gain (s.setActive d))

/-- Settles O18: the longest run of events is SWITCH_SCENE's, a blackout and a resend of at most 128 slots each. -/
theorem outputHistoryOnlyGrows : Obligations.OutputHistoryOnlyGrows := by
  intro s t hr hstep
  rcases step_exec_or_registers_stay hr hstep with ⟨rest, i, hexec⟩ | same
  · exact exec_out (s := { s with timeline := rest }) hexec
  · rw [same]
    exact ⟨[], (List.append_nil _).symm, Nat.zero_le 256⟩

/-! ### STATUS and RESP reach no other field (10_state.md R49, 60_exceptions.md R284) -/

/-- `s` with another fault record and another last response. -/
def State.withRecord (s : State) (status resp : Word) : State := { s with status := status, resp := resp }

variable (a b : Word)

theorem ite_withRecord (c : Prop) [Decidable c] (u v : State) :
    (if c then u else v).withRecord a b = if c then u.withRecord a b else v.withRecord a b :=
  apply_ite (State.withRecord · a b) c u v

theorem setValue_withRecord (s : State) (x : Slot) :
    (s.withRecord a b).setValue x = (s.setValue x).withRecord a b := by
  unfold State.setValue
  rw [ite_withRecord]
  rfl

theorem acceptGain_withRecord (s : State) (g : BitVec 16) :
    (s.withRecord a b).acceptGain g = (s.acceptGain g).withRecord a b := rfl

theorem flipScene_withRecord (s : State) (d : Bool) :
    (s.withRecord a b).flipScene d = (s.flipScene d).withRecord a b := by
  unfold State.flipScene
  rw [ite_withRecord]
  rfl

theorem bvGrow_withRecord (s : State) : (s.withRecord a b).bvGrow = s.bvGrow.withRecord a b := by
  unfold State.bvGrow
  rw [ite_withRecord]
  rfl

theorem bvStore_withRecord (s : State) (v : Slot) : (s.withRecord a b).bvStore v = (s.bvStore v).withRecord a b := by
  unfold State.bvStore
  rw [ite_withRecord]
  rfl

theorem bvPush_withRecord (s : State) (v : Slot) : (s.withRecord a b).bvPush v = (s.bvPush v).withRecord a b := by
  rw [State.bvPush, bvGrow_withRecord, bvStore_withRecord, State.bvPush]

theorem bvPop_withRecord (s : State) : (s.withRecord a b).bvPop = s.bvPop.withRecord a b := by
  unfold State.bvPop
  rw [ite_withRecord]
  rfl

theorem deliver_withRecord (s : State) : (s.withRecord a b).deliver = s.deliver.withRecord a b := by
  rcases deliver_cases s with ⟨hquiet, hs⟩ | ⟨bytes, rest, htime, hs⟩
  · rw [hs]
    exact deliver_of_quiet hquiet
  · rw [hs]
    exact deliver_of_arrive htime

theorem rxPop_withRecord {byte : Byte} (h : s.rxPop = some (byte, t)) :
    (s.withRecord a b).rxPop = some (byte, t.withRecord a b) := by
  obtain ⟨-, -, hrx, ht⟩ := rxPop_some h
  rw [ht]
  unfold State.rxPop
  rw [deliver_withRecord, show (s.deliver.withRecord a b).rx = byte :: t.rx from hrx]
  rfl

theorem rxPop_pstate {byte : Byte} (h : s.rxPop = some (byte, t)) : t.pstate = s.pstate := by
  obtain ⟨-, -, -, ht⟩ := rxPop_some h
  rw [ht]
  exact State.deliver_pstate s

theorem scanStep_of_empty (h : s.deliver.rx.length = 0) : s.scanStep = .next s.deliver.noMessage :=
  if_pos h

theorem scanStep_of_pop {byte : Byte} (hne : s.deliver.rx.length ≠ 0) (h : s.deliver.rxPop = some (byte, t)) :
    s.scanStep = .next (if byte = t.filter then { t with pstate := .avail } else t) := by
  simp only [State.scanStep, State.rxAvail, if_neg hne, h]

/-- One scan turn: RESP is written when it ends the command, and otherwise not read. -/
theorem scanStep_withRecord (hp : s.pstate = .scan) (h : s.scanStep = .next t) :
    ∃ b', (s.withRecord a b).scanStep = .next (t.withRecord a b') ∧ (t.pstate = .idle → b' = t.resp) := by
  have hdeliver := deliver_withRecord a b s
  by_cases hempty : s.deliver.rx.length = 0
  · rw [scanStep_of_empty hempty] at h
    cases h
    refine ⟨respNone, ?_, fun _ => rfl⟩
    rw [scanStep_of_empty (by rw [hdeliver]; exact hempty), hdeliver]
    rfl
  · obtain ⟨byte, u, hpop⟩ := rxPop_total (s := s.deliver) (by omega)
    have hscan : u.pstate = .scan := by rw [rxPop_pstate hpop, State.deliver_pstate, hp]
    rw [scanStep_of_pop hempty hpop] at h
    cases h
    refine ⟨b, ?_, ?_⟩
    · rw [scanStep_of_pop (t := u.withRecord a b) (by rw [hdeliver]; exact hempty)
        (by rw [hdeliver]; exact rxPop_withRecord a b hpop), ite_withRecord]
      rfl
    · split <;> simp [hscan]

/-- The test for two more bytes: RESP is written when it fails, and otherwise not read. -/
theorem availStep_withRecord (s : State) : ∃ b', (s.withRecord a b).availStep = s.availStep.withRecord a b' ∧
    (s.availStep.pstate = .idle → b' = s.availStep.resp) := by
  unfold State.availStep State.rxAvail
  rw [deliver_withRecord]
  by_cases hshort : s.deliver.rx.length < 2
  · rw [if_pos hshort]
    exact ⟨respNone, if_pos hshort, fun _ => rfl⟩
  · rw [if_neg hshort]
    exact ⟨b, if_neg hshort, fun idle => by cases idle⟩

theorem harvested_withRecord (s : State) (d1 d2 : Byte) :
    (s.withRecord a b).harvested d1 d2 = (s.harvested d1 d2).withRecord a (s.harvested d1 d2).resp := by
  unfold State.harvested
  split <;> rfl

theorem harvestStep_withRecord (h : s.harvestStep = .next t) :
    (s.withRecord a b).harvestStep = .next (t.withRecord a t.resp) := by
  unfold State.harvestStep at h ⊢
  cases hpop1 : s.rxPop with
  | none => simp [hpop1] at h
  | some popped1 =>
    obtain ⟨d1, s1⟩ := popped1
    cases hpop2 : s1.rxPop with
    | none => simp [hpop1, hpop2] at h
    | some popped2 =>
      obtain ⟨d2, s2⟩ := popped2
      simp only [hpop1, hpop2, rxPop_withRecord a b hpop1, rxPop_withRecord a b hpop2] at h ⊢
      cases h
      rw [harvested_withRecord]

/-- A micro-step that ends the command has written RESP; one that goes on has not read it. -/
theorem parserStep_withRecord (hp : s.pstate ≠ .idle) (h : parserStep s = .next t) :
    ∃ b', parserStep (s.withRecord a b) = .next (t.withRecord a b') ∧ (t.pstate = .idle → b' = t.resp) := by
  unfold parserStep at h ⊢
  rw [show (s.withRecord a b).pstate = s.pstate from rfl]
  cases hs : s.pstate with
  | idle => exact absurd hs hp
  | scan =>
    rw [hs] at h
    exact scanStep_withRecord a b hs h
  | avail =>
    rw [hs] at h
    cases h
    obtain ⟨b', hstep, hidle⟩ := availStep_withRecord a b s
    exact ⟨b', congrArg _ hstep, hidle⟩
  | harvest =>
    rw [hs] at h
    exact ⟨t.resp, harvestStep_withRecord a b h, fun _ => rfl⟩

theorem runParser_idle_withRecord {b : Word} {fuel : Nat} (hp : s.pstate = .idle) (hb : b = s.resp)
    (h : runParser fuel s = .next t) : runParser fuel (s.withRecord a b) = .next (t.withRecord a t.resp) := by
  rw [runParser_idle hp] at h
  cases h
  rw [hb]
  exact runParser_idle hp

/-- A run of the parser under another record, whose RESP is already the answer when the parser is IDLE. -/
theorem runParser_withRecord (fuel : Nat) (hidle : s.pstate = .idle → b = s.resp) (h : runParser fuel s = .next t) :
    runParser fuel (s.withRecord a b) = .next (t.withRecord a t.resp) := by
  induction fuel generalizing s b with
  | zero =>
    by_cases hp : s.pstate = .idle
    · exact runParser_idle_withRecord a hp (hidle hp) h
    · simp [runParser, hp] at h
  | succ fuel ih =>
    by_cases hp : s.pstate = .idle
    · exact runParser_idle_withRecord a hp (hidle hp) h
    · cases hstep : parserStep s with
      | next u =>
        obtain ⟨b', hstep', hidle'⟩ := parserStep_withRecord a b hp hstep
        rw [runParser_succ hp hstep] at h
        rw [runParser_succ (s := s.withRecord a b) hp hstep']
        exact ih b' hidle' h
      | fault => simp [runParser, hp, hstep] at h
      | refused => simp [runParser, hp, hstep] at h

/-- An operation that commutes with another record, and then answers `w`. -/
theorem answered_withRecord {op op' : State} (h : op' = op.withRecord a b) (w : Word) :
    ∃ a' b', (.next (op'.respond w) : Result) = .next ((op.respond w).withRecord a' b') ∧
      (isCommand i = true → b' = (op.respond w).resp) :=
  ⟨a, w, by rw [h]; rfl, fun _ => rfl⟩

/-- An instruction's effect under another record is its effect, with some record in the end; a command's response in
that record is its response. -/
theorem exec_withRecord (hi : i ≠ .getStatus) (h : exec i s = .next t) :
    ∃ a' b', exec i (s.withRecord a b) = .next (t.withRecord a' b') ∧ (isCommand i = true → b' = t.resp) := by
  cases i with
  | getStatus => exact absurd rfl hi
  | readCc => exact ⟨a, t.resp, runParser_withRecord a b _ (fun idle => by cases idle) h, fun _ => rfl⟩
  | setValue set c x =>
    cases h
    exact answered_withRecord a b (setValue_withRecord a b s _) _
  | setGain g =>
    cases h
    refine answered_withRecord a b ?_ _
    rw [ite_withRecord, ← acceptGain_withRecord]
    rfl
  | staticAppend ch colour =>
    cases h
    refine answered_withRecord a b ?_ _
    rw [ite_withRecord, bvPush_withRecord]
  | switchScene d =>
    cases h
    refine answered_withRecord a b ?_ _
    rw [ite_withRecord, ← flipScene_withRecord]
    rfl
  | bvPush set c x =>
    cases h
    exact answered_withRecord a b (bvPush_withRecord a b s _) _
  | bvPop =>
    cases h
    exact answered_withRecord a b (bvPop_withRecord a b s) _
  | bvRead x =>
    simp only [exec, execBvRead] at h ⊢
    split at h
    · next below =>
      cases h
      exact ⟨a, _, if_pos below, fun _ => rfl⟩
    · next beyond =>
      cases h
      exact ⟨a ||| statusBit .bvIndex, respNone, if_neg beyond, fun _ => rfl⟩
  | toDmx | getGain | getScene | getFilter | getDyn | bvSize | bvCapacity | bvMaxSize | bvEmpty =>
    cases h
    exact answered_withRecord a b rfl _
  | midiCcFrame n c v =>
    cases h
    exact ⟨a, b, rfl, fun command => by cases command⟩

/-- Settles O20: the next state under another record is the next state with another record. -/
theorem faultRecordNeverInfluencesCommands : Obligations.FaultRecordNeverInfluencesCommands := by
  intro i s t status resp hi h
  obtain ⟨a', b', hexec, hresp⟩ := exec_withRecord status resp hi h
  exact ⟨t.withRecord a' b', hexec, rfl, hresp⟩

end Sys2Proof.Machine

/-! PROOFS of the family 20_memory.md: what a step does with the timeline's next action, arrivals between commands and
beside them, READ_CC's accesses to RX while bytes arrive (P17, P18), and the observation commands. -/

namespace Sys2Proof.Machine

variable {s t : State} {i : Instr}

/-! ### The timeline's next action -/

theorem step_of_decoded {a : PortAction} {rest : List PortAction} (htime : s.timeline = a :: rest)
    (hdecode : decodeAction a = some i) : step s = exec i { s with timeline := rest } := by
  simp only [step, fetch, htime, hdecode]

theorem step_of_undecoded {a : PortAction} {rest : List PortAction} (htime : s.timeline = a :: rest)
    (hdecode : decodeAction a = none) : step s = .next (settleAction a { s with timeline := rest }) := by
  simp only [step, fetch, htime, hdecode]

/-- Settles O7: `fetch` hands the decoded instruction to `exec`. -/
theorem stepRunsDecodedInstruction : Obligations.StepRunsDecodedInstruction :=
  fun _ _ _ _ htime hdecode => step_of_decoded htime hdecode

/-! ### Arrivals between commands (20_memory.md R78) -/

theorem decodeFrame_some {bytes : List Byte} (h : decodeFrame bytes = some i) :
    ∃ n c v, i = .midiCcFrame n c v ∧ encodeFrame n c v = bytes := by
  unfold decodeFrame at h
  split at h
  · split at h
    · next status controller value hframe =>
      cases h
      exact ⟨_, _, _, rfl, encodeFrame_fields status controller value hframe⟩
    · cases h
  · cases h

/-- Settles O10: a frame's bytes arrive by executing MIDI_CC_FRAME, any others without an instruction. -/
theorem arrivalAppendsItsBytesInOrder : Obligations.ArrivalAppendsItsBytesInOrder := by
  intro s bytes rest htime
  cases hdecode : decodeFrame bytes with
  | none => exact step_of_undecoded htime hdecode
  | some i =>
    rw [step_of_decoded htime hdecode]
    obtain ⟨n, c, v, rfl, rfl⟩ := decodeFrame_some hdecode
    rfl

/-! ### Commands other than READ_CC do not read RX (10_state.md R49) -/

section Arrivals

variable (bytes : List Byte)

theorem ite_rxAppend (c : Prop) [Decidable c] (u v : State) :
    (if c then u else v).rxAppend bytes = if c then u.rxAppend bytes else v.rxAppend bytes :=
  apply_ite (State.rxAppend · bytes) c u v

theorem setValue_rxAppend (s : State) (x : Slot) :
    (s.rxAppend bytes).setValue x = (s.setValue x).rxAppend bytes := by
  unfold State.setValue
  rw [ite_rxAppend]
  rfl

theorem acceptGain_rxAppend (s : State) (g : BitVec 16) :
    (s.rxAppend bytes).acceptGain g = (s.acceptGain g).rxAppend bytes := rfl

theorem flipScene_rxAppend (s : State) (d : Bool) :
    (s.rxAppend bytes).flipScene d = (s.flipScene d).rxAppend bytes := by
  unfold State.flipScene
  rw [ite_rxAppend]
  rfl

theorem bvGrow_rxAppend (s : State) : (s.rxAppend bytes).bvGrow = s.bvGrow.rxAppend bytes := by
  unfold State.bvGrow
  rw [ite_rxAppend]
  rfl

theorem bvStore_rxAppend (s : State) (v : Slot) :
    (s.rxAppend bytes).bvStore v = (s.bvStore v).rxAppend bytes := by
  unfold State.bvStore
  rw [ite_rxAppend]
  rfl

theorem bvPush_rxAppend (s : State) (v : Slot) :
    (s.rxAppend bytes).bvPush v = (s.bvPush v).rxAppend bytes := by
  rw [State.bvPush, bvGrow_rxAppend, bvStore_rxAppend, State.bvPush]

theorem bvPop_rxAppend (s : State) : (s.rxAppend bytes).bvPop = s.bvPop.rxAppend bytes := by
  unfold State.bvPop
  rw [ite_rxAppend]
  rfl

/-- An operation that commutes with the arrival still does so when it answers `w`. -/
theorem answered_rxAppend {op op' : State} (h : op' = op.rxAppend bytes) (w : Word) :
    (.next (op'.respond w) : Result) = .next ((op.respond w).rxAppend bytes) := by
  rw [h]
  rfl

theorem exec_rxAppend (hcommand : isCommand i = true) (hi : i ≠ .readCc) (h : exec i s = .next t) :
    exec i (s.rxAppend bytes) = .next (t.rxAppend bytes) := by
  cases i with
  | readCc => exact absurd rfl hi
  | midiCcFrame n c v => cases hcommand
  | setValue set c x =>
    cases h
    exact answered_rxAppend bytes (setValue_rxAppend bytes s _) _
  | setGain g =>
    cases h
    refine answered_rxAppend bytes ?_ _
    rw [ite_rxAppend, ← acceptGain_rxAppend]
    rfl
  | staticAppend a b =>
    cases h
    refine answered_rxAppend bytes ?_ _
    rw [ite_rxAppend, bvPush_rxAppend]
  | switchScene d =>
    cases h
    refine answered_rxAppend bytes ?_ _
    rw [ite_rxAppend, ← flipScene_rxAppend]
    rfl
  | bvPush set c x =>
    cases h
    exact answered_rxAppend bytes (bvPush_rxAppend bytes s _) _
  | bvPop =>
    cases h
    exact answered_rxAppend bytes (bvPop_rxAppend bytes s) _
  | bvRead x =>
    simp only [exec, execBvRead] at h ⊢
    split at h
    · next below =>
      cases h
      exact if_pos below
    · next beyond =>
      cases h
      exact if_neg beyond
  | toDmx | getGain | getScene | getFilter | getStatus | getDyn | bvSize | bvCapacity | bvMaxSize | bvEmpty =>
    cases h
    rfl

end Arrivals

/-- Settles O19: each operation of a command other than READ_CC commutes with the arrival. -/
theorem commandsCommuteWithArrivals : Obligations.CommandsCommuteWithArrivals :=
  fun _ bytes _ _ hcommand hi h => exec_rxAppend bytes hcommand hi h

/-! ### READ_CC while bytes arrive (42_frame_parser.md R191, R192) -/

/-- READ_CC has micro-steps enough to end, whatever arrives. -/
theorem execReadCc_next (s : State) : ∃ t, execReadCc s = .next t := by
  obtain ⟨t, -, hrun, -⟩ := runParser_next (parserFuel s) { s with pstate := .scan }
    (fun harvest => by cases harvest) (parserFuel_enough s)
  exact ⟨t, hrun⟩

/-- Settles O28: READ_CC ends, and each of its micro-steps keeps the order of the stream. -/
theorem readCcKeepsStreamOrder : Obligations.ReadCcKeepsStreamOrder := by
  intro s
  obtain ⟨t, hrun⟩ := execReadCc_next s
  obtain ⟨⟨popped, hmoves⟩, hsame⟩ := execReadCc_cases hrun
  exact ⟨t, popped, hrun, hmoves, hsame⟩

/-- An arrival of no bytes lets one RX access pass. -/
theorem deliver_of_silence {rest : List PortAction} (htime : s.timeline = .arrive [] :: rest) :
    s.deliver = { s with timeline := rest } := by
  rw [deliver_of_arrive htime, List.append_nil]

/-- A sync byte in front is found while nothing arrives at its count and at its pop; the parser goes on at AVAIL. -/
theorem execReadCc_of_sync {tail : List Byte} {rest : List PortAction} (hrx : s.rx = s.filter :: tail)
    (htime : s.timeline = .arrive [] :: .arrive [] :: rest) : execReadCc s =
      runParser (tail.length + arrivingBytes rest + 3) { s with rx := tail, timeline := rest, pstate := .avail } := by
  have hfuel : parserFuel s = tail.length + arrivingBytes rest + 3 + 1 := by
    rw [parserFuel, hrx, htime]
    simp only [arrivingBytes, List.length_cons, List.length_nil]
    omega
  have hcount : ({ s with pstate := .scan } : State).deliver =
      { s with pstate := .scan, timeline := .arrive [] :: rest } :=
    deliver_of_silence (s := { s with pstate := .scan }) htime
  have hpop : ({ s with pstate := .scan, timeline := .arrive [] :: rest } : State).rxPop =
      some (s.filter, { s with pstate := .scan, rx := tail, timeline := rest }) := by
    unfold State.rxPop
    rw [deliver_of_silence (rest := rest) rfl]
    simp only [hrx]
  have hstep : parserStep { s with pstate := .scan } =
      .next { s with rx := tail, timeline := rest, pstate := .avail } := by
    change State.scanStep _ = _
    rw [scanStep_of_pop (by rw [hcount]; simp [hrx]) (by rw [hcount]; exact hpop), if_pos rfl]
  rw [execReadCc, hfuel, runParser_succ (fun idle => by cases idle) hstep]

/-- The one test for two more bytes, on what RX holds after the arrivals of its access (42_frame_parser.md R194). -/
theorem parserStep_of_avail (hp : s.pstate = .avail) : parserStep s =
    .next (if s.deliver.rx.length < 2 then s.deliver.noMessage else { s.deliver with pstate := .harvest }) := by
  simp only [parserStep, hp]
  rfl

/-- Settles O31: the one test for two more bytes finds none, and the arrival stays on the timeline. -/
theorem arrivalAfterCountIsTooLate : Obligations.ArrivalAfterCountIsTooLate := by
  intro s bytes later hrx htime
  change execReadCc s = _
  rw [execReadCc_of_sync hrx htime, runParser_succ (fun idle => by cases idle) (parserStep_of_avail rfl),
    deliver_of_silence (rest := .arrive bytes :: later) rfl]
  exact runParser_idle rfl

theorem rxPop_oldest {b : Byte} {rest : List Byte} (hrx : s.rx = b :: rest) :
    ∃ arrived u, s.rxPop = some (b, u) ∧ u.rx = rest ++ arrived := by
  obtain ⟨arrived, hdeliver⟩ : ∃ arrived, s.deliver.rx = b :: (rest ++ arrived) := by
    rcases deliver_cases s with ⟨-, h⟩ | ⟨arrived, _, -, h⟩ <;> rw [h]
    · exact ⟨[], by rw [hrx, List.append_nil]⟩
    · exact ⟨arrived, by rw [hrx, List.cons_append]⟩
  exact ⟨arrived, { s.deliver with rx := rest ++ arrived }, by simp only [State.rxPop, hdeliver], rfl⟩

/-- HARVEST reads the two oldest bytes, whatever arrives meanwhile. -/
theorem parserStep_harvest_oldest {d1 d2 : Byte} {rest : List Byte} (hp : s.pstate = .harvest)
    (hrx : s.rx = d1 :: d2 :: rest) :
    ∃ u : State, parserStep s = .next (u.harvested d1 d2) ∧ (s.quiet = true → u.rx = rest) := by
  by_cases quiet : s.quiet = true
  · exact ⟨_, parserStep_harvest quiet hp hrx, fun _ => rfl⟩
  · obtain ⟨arrived, s1, hpop1, hrx1⟩ := rxPop_oldest hrx
    obtain ⟨-, s2, hpop2, -⟩ := rxPop_oldest (hrx1.trans List.cons_append)
    exact ⟨s2, by simp only [parserStep, hp, State.harvestStep, hpop1, hpop2], fun hquiet => absurd hquiet quiet⟩

theorem isDataByte_iff (b : Byte) : isDataByte b = true ↔ b.toNat ≤ 127 := by
  revert b
  decide +kernel

/-- The message word in plain numbers (30_encoding.md R107): its bits lie as those of a format B word. -/
theorem respCc_eq (d1 d2 : Byte) : respCc d1 d2 = BitVec.ofNat 32 (0x10000 + d1.toNat * 256 + d2.toNat) := by
  have hword := asmWord_eq_wordB 0x10000 d1.toNat d2.toNat (Nat.le_of_lt_succ d1.isLt) (Nat.le_of_lt_succ d2.isLt)
    (by decide)
  rw [BitVec.ofNat_toNat, BitVec.ofNat_toNat, BitVec.setWidth_eq, BitVec.setWidth_eq] at hword
  exact hword.symm

theorem harvested_of_data {d1 d2 : Byte} (h1 : d1.toNat ≤ 127) (h2 : d2.toNat ≤ 127) : s.harvested d1 d2 =
    { s with resp := BitVec.ofNat 32 (0x10000 + d1.toNat * 256 + d2.toNat), pstate := .idle } := by
  rw [State.harvested, (isDataByte_iff d1).2 h1, (isDataByte_iff d2).2 h2, respCc_eq]
  rfl

/-- Settles O30: the one test for two more bytes finds both data bytes, and HARVEST reads them. -/
theorem arrivalBeforeCountCompletesMessage : Obligations.ArrivalBeforeCountCompletesMessage := by
  intro s c v later hrx htime
  have havail : parserStep
      { s with rx := [], timeline := .arrive [c.setWidth 8, v.setWidth 8] :: later, pstate := .avail } =
      .next { s with rx := [c.setWidth 8, v.setWidth 8], timeline := later, pstate := .harvest } := by
    rw [parserStep_of_avail rfl, deliver_of_arrive (rest := later) rfl]
    rfl
  obtain ⟨u, hharvest, hrest⟩ := parserStep_harvest_oldest
    (s := { s with rx := [c.setWidth 8, v.setWidth 8], timeline := later, pstate := .harvest }) rfl rfl
  refine ⟨u.harvested (c.setWidth 8) (v.setWidth 8), ?_, ?_, fun quiet => ?_⟩
  · change execReadCc s = _
    rw [execReadCc_of_sync hrx htime, runParser_succ (fun idle => by cases idle) havail,
      runParser_succ (fun idle => by cases idle) hharvest]
    exact runParser_idle (harvested_pstate _ _)
  · have dataByte (x : BitVec 7) : (x.setWidth 8).toNat = x.toNat := BitVec.toNat_setWidth_of_le (by decide)
    rw [harvested_of_data (by rw [dataByte]; omega) (by rw [dataByte]; omega), dataByte, dataByte]
  · rw [State.harvested_rx, hrest quiet]

/-! ### Observation commands (20_memory.md R74) -/

/-- A query answers, and not by the response before it. -/
theorem exec_query (h : isQuery i = true ∨ ∃ x, i = .bvRead x ∧ x.toNat < s.ssSize.toNat) :
    (∃ w, exec i s = .next (s.respond w)) ∧ ∀ v, exec i (s.respond v) = exec i s := by
  rcases h with query | ⟨x, rfl, below⟩
  · cases i with
    | getGain | getScene | getFilter | getStatus | getDyn | bvSize | bvCapacity | bvMaxSize | bvEmpty =>
      exact ⟨⟨_, rfl⟩, fun _ => rfl⟩
    | readCc | toDmx | setValue | setGain | staticAppend | switchScene | bvPush | bvPop | bvRead | midiCcFrame =>
      cases query
  · exact ⟨⟨_, if_pos below⟩, fun _ => rfl⟩

/-- Settles O51: the next state differs in RESP, which no query reads. -/
theorem queriesAreIdempotent : Obligations.QueriesAreIdempotent := by
  intro i s t hquery h
  obtain ⟨⟨w, hanswer⟩, hrepeat⟩ := exec_query hquery
  cases h.symm.trans hanswer
  exact ⟨rfl, (hrepeat w).trans h⟩

end Sys2Proof.Machine

/-! PROOFS of the family 30_encoding.md: decoder and encoder as inverses, the reserved words, the assembler, READ_CC on a
stream at which nothing arrives, and the HOST's procedures POLL and SET_STATIC_SCENE. -/

namespace Sys2Proof.Machine

open Laws

variable {s t u : State} {i : Instr} {w : Word}

/-! ### Decoder and encoder (30_encoding.md R101, R106, R108) -/

/-- A word that shows a row's bits decodes to what the row's fields give. -/
theorem decodeCommand_of_row (k : Nat) (hk : k < commandRows.length)
    (shown : w &&& commandRows[k].mask = commandRows[k].value) (built : commandRows[k].build w = i) :
    decodeCommand w = some i := by
  rw [decode_row k hk w (beq_iff_eq.2 shown), built]

theorem decodeFrame_encodeFrame (n : BitVec 4) (c v : BitVec 7) :
    decodeFrame (encodeFrame n c v) = some (.midiCcFrame n c v) := by
  rw [encodeFrame, decodeFrame, if_pos (frameBits_encodeFrame n c v), statusByte_low, dataByte_low, dataByte_low]

theorem slotFields_wordS (op : Word) (set : Bool) (c x : BitVec 8) (h : op &&& 0x0001FFFF#32 = 0) :
    fieldSet (wordS op set c x) = set ∧ fieldHigh (wordS op set c x) = c ∧ fieldLow (wordS op set c x) = x := by
  have clear (m : Word) (hm : 0x0001FFFF#32 &&& m = m) : op &&& m = 0 := by
    rw [← hm, ← BitVec.and_assoc, h]
    exact BitVec.zero_and
  refine ⟨fieldSet_wordS op set c x ?_, fieldHigh_wordS op set c x (clear _ rfl),
    fieldLow_wordS op set c x (clear _ rfl)⟩
  simpa using congrArg (BitVec.getLsbD · 16) h

/-- Settles O1: each instruction's word shows its own row's bits, and the row's fields are the operands. -/
theorem encodeThenDecodeGivesInstruction : Obligations.EncodeThenDecodeGivesInstruction := by
  intro i
  cases i with
  | readCc => exact decodeCommand_of_row 0 (by decide) RowOwnsWord.readCc.2 rfl
  | toDmx a b =>
    exact decodeCommand_of_row 1 (by decide) (RowOwnsWord.toDmx a b).2
      (congrArg₂ Instr.toDmx (fieldHigh_wordB _ a b rfl) (fieldLow_wordB _ a b rfl))
  | setValue set c x =>
    obtain ⟨hset, hc, hx⟩ := slotFields_wordS 0x30000000#32 set c x rfl
    exact decodeCommand_of_row 2 (by decide) (RowOwnsWord.setValue set c x).2
      (show Instr.setValue _ _ _ = _ by rw [hset, hc, hx])
  | setGain g =>
    exact decodeCommand_of_row 3 (by decide) (RowOwnsWord.setGain g).2 (congrArg Instr.setGain (fieldGain_wordG _ g rfl))
  | staticAppend a b =>
    exact decodeCommand_of_row 4 (by decide) (RowOwnsWord.staticAppend a b).2
      (congrArg₂ Instr.staticAppend (fieldHigh_wordB _ a b rfl) (fieldLow_wordB _ a b rfl))
  | switchScene d =>
    exact decodeCommand_of_row 5 (by decide) (RowOwnsWord.switchScene d).2
      (congrArg Instr.switchScene (fieldDynamic_wordF _ d rfl))
  | getGain => exact decodeCommand_of_row 6 (by decide) RowOwnsWord.getGain.2 rfl
  | getScene => exact decodeCommand_of_row 7 (by decide) RowOwnsWord.getScene.2 rfl
  | getFilter => exact decodeCommand_of_row 8 (by decide) RowOwnsWord.getFilter.2 rfl
  | getStatus => exact decodeCommand_of_row 9 (by decide) RowOwnsWord.getStatus.2 rfl
  | getDyn x =>
    exact decodeCommand_of_row 10 (by decide) (RowOwnsWord.getDyn x).2 (congrArg Instr.getDyn (fieldIndex_wordX _ x rfl))
  | bvPush set c x =>
    obtain ⟨hset, hc, hx⟩ := slotFields_wordS 0x80000000#32 set c x rfl
    exact decodeCommand_of_row 11 (by decide) (RowOwnsWord.bvPush set c x).2
      (show Instr.bvPush _ _ _ = _ by rw [hset, hc, hx])
  | bvPop => exact decodeCommand_of_row 12 (by decide) RowOwnsWord.bvPop.2 rfl
  | bvSize => exact decodeCommand_of_row 13 (by decide) RowOwnsWord.bvSize.2 rfl
  | bvCapacity => exact decodeCommand_of_row 14 (by decide) RowOwnsWord.bvCapacity.2 rfl
  | bvMaxSize => exact decodeCommand_of_row 15 (by decide) RowOwnsWord.bvMaxSize.2 rfl
  | bvEmpty => exact decodeCommand_of_row 16 (by decide) RowOwnsWord.bvEmpty.2 rfl
  | bvRead x =>
    exact decodeCommand_of_row 17 (by decide) (RowOwnsWord.bvRead x).2 (congrArg Instr.bvRead (fieldIndex_wordX _ x rfl))
  | midiCcFrame n c v => exact decodeFrame_encodeFrame n c v

/-- The encoder on a row's instruction gives back every word that the row selects. -/
theorem encode_build (k : Nat) (hk : k < commandRows.length) (h : commandRows[k].selects w = true) :
    encode (commandRows[k].build w) = .command w := by
  have shown := beq_iff_eq.1 h
  have hk18 : k < 18 := hk
  match k, hk18 with
  | 0, _ | 6, _ | 7, _ | 8, _ | 9, _ | 12, _ | 13, _ | 14, _ | 15, _ | 16, _ =>
    exact congrArg PortAction.command (word_of_full_mask _ w shown)
  | 1, _ | 4, _ => exact congrArg PortAction.command (wordB_fields _ w shown)
  | 2, _ | 11, _ => exact congrArg PortAction.command (wordS_fields _ w shown)
  | 3, _ => exact congrArg PortAction.command (wordG_fields _ w shown)
  | 5, _ => exact congrArg PortAction.command (wordF_fields _ w shown)
  | 10, _ | 17, _ => exact congrArg PortAction.command (wordX_fields _ w shown)
  | k + 18, beyond => omega

/-- Settles O2: a decoded word is its row's bits and fields, and decoded bytes are their frame. -/
theorem decodeThenEncodeGivesAction : Obligations.DecodeThenEncodeGivesAction := by
  intro a i h
  cases a with
  | command w =>
    obtain ⟨k, hk, selected, rfl⟩ := decode_some h
    exact encode_build k hk selected
  | arrive bytes =>
    obtain ⟨n, c, v, rfl, rfl⟩ := decodeFrame_some h
    rfl
  | reset channel => cases h

/-- Settles O3: of two rows the earlier one clashes with the later one in a bit that both test. -/
theorem commandRowsNeverOverlap : Obligations.CommandRowsNeverOverlap := by
  intro w j k hj hk selectsJ selectsK
  have clash {a b : Nat} (ha : a < commandRows.length) (hb : b < commandRows.length) (hab : a < b)
      (selectsA : commandRows[a].selects w = true) (selectsB : commandRows[b].selects w = true) : False := by
    have := List.pairwise_iff_getElem.1 commandRows_clash a b ha hb hab
    rw [rowsClash_of_selects selectsA selectsB] at this
    cases this
  rcases Nat.lt_trichotomy j k with hlt | heq | hgt
  · exact (clash hj hk hlt selectsJ selectsK).elim
  · exact heq
  · exact (clash hk hj hgt selectsK selectsJ).elim

/-- Settles O5: each word and frame is the encoding of its instruction. -/
theorem specWordsDecode : Obligations.SpecWordsDecode :=
  have decodes := encodeThenDecodeGivesInstruction
  ⟨decodes .readCc, decodes (.toDmx 0x10 0x40), decodes (.setValue true 3 50), decodes (.setGain 1020),
    decodes (.staticAppend 7 90), decodes (.switchScene true), decodes .getStatus, decodes (.getDyn 16),
    decodes (.bvPush true 200 9), decodes (.bvRead 2), decodes (.midiCcFrame 4 0x10 0x40)⟩

/-! ### The reserved words (30_encoding.md R104, R105, R112) -/

theorem toNat_field (w : Word) (lo len : Nat) : (w.extractLsb' lo len).toNat = w.toNat / 2 ^ lo % 2 ^ len := by
  rw [BitVec.extractLsb'_toNat, Nat.shiftRight_eq_div_pow]

/-- Two numbers agree from bit `lo` up exactly when they agree from bit `hi` up and on the bits between. -/
theorem div_two_pow_eq_iff {lo hi : Nat} (h : lo ≤ hi) (n m : Nat) : n / 2 ^ lo = m / 2 ^ lo ↔
    n / 2 ^ hi = m / 2 ^ hi ∧ n / 2 ^ lo % 2 ^ (hi - lo) = m / 2 ^ lo % 2 ^ (hi - lo) := by
  have hhigh (k : Nat) : k / 2 ^ hi = k / 2 ^ lo / 2 ^ (hi - lo) := by
    rw [Nat.div_div_eq_div_mul, ← Nat.pow_add, Nat.add_sub_cancel' h]
  rw [hhigh, hhigh]
  refine ⟨fun heq => by rw [heq]; exact ⟨rfl, rfl⟩, fun ⟨hdiv, hmod⟩ => ?_⟩
  rw [← Nat.div_add_mod (n / 2 ^ lo) (2 ^ (hi - lo)), hdiv, hmod, Nat.div_add_mod]

/-- A row whose match value is `code` from bit `hi` up, and whose mask ends at bit `lo`, selects the words with that code
and 0 on the bits between. -/
theorem selects_iff_field {r : CommandRow} {lo hi code : Nat} (h : lo ≤ hi) (hmask : r.mask = BitVec.allOnes 32 <<< lo)
    (hvalue : r.value &&& r.mask = r.value) (hcode : r.value.toNat = code * 2 ^ hi) (w : Word) :
    r.selects w = true ↔ w.toNat / 2 ^ hi = code ∧ w.extractLsb' lo (hi - lo) = 0 := by
  have hclear : code * 2 ^ hi / 2 ^ lo % 2 ^ (hi - lo) = 0 := by
    rw [← Nat.pow_sub_mul_pow 2 h, ← Nat.mul_assoc, Nat.mul_div_cancel _ (Nat.two_pow_pos lo), Nat.mul_mod_left]
  rw [selects_iff r w lo hmask hvalue, div_two_pow_eq_iff h, hcode, hclear, Nat.mul_div_cancel _ (Nat.two_pow_pos hi),
    ← toNat_field, ← BitVec.toNat_inj]
  rfl

/-- OP and the lowest tested bit of each row outside the query group (30_encoding.md R104). -/
def opFields : List (Nat × Nat) :=
  [(0x1, 0), (0x2, 16), (0x3, 17), (0x4, 16), (0x5, 16), (0x6, 1), (0x8, 17), (0x9, 0), (0xA, 0), (0xB, 0), (0xC, 0),
    (0xD, 0), (0xE, 7)]

/-- SEL and the lowest tested bit of each row of the query group (30_encoding.md R105). -/
def selFields : List (Nat × Nat) := [(0, 0), (1, 0), (2, 0), (3, 0), (4, 7)]

theorem opFields_spec : ∀ p ∈ (engineRows ++ vectorRows).zip opFields, p.2.2 ≤ 28 ∧
    p.1.mask = BitVec.allOnes 32 <<< p.2.2 ∧ p.1.value &&& p.1.mask = p.1.value ∧
    p.1.value.toNat = p.2.1 * 2 ^ 28 := by decide

theorem selFields_spec : ∀ p ∈ queryRows.zip selFields, p.2.2 ≤ 24 ∧
    p.1.mask = BitVec.allOnes 32 <<< p.2.2 ∧ p.1.value &&& p.1.mask = p.1.value ∧
    p.1.value.toNat = (16 * 7 + p.2.1) * 2 ^ 24 ∧ p.2.1 < 16 := by decide

theorem toNat_opcode (w : Word) : (w.extractLsb' 28 4).toNat = w.toNat / 2 ^ 28 := by
  rw [toNat_field]
  omega

theorem toNat_opcode_selector (w : Word) :
    w.toNat / 2 ^ 24 = 16 * (w.extractLsb' 28 4).toNat + (w.extractLsb' 24 4).toNat := by
  rw [toNat_opcode, toNat_field]
  omega

theorem forall_mem_iff_of_zip {α β : Type} {l : List α} {m : List β} {P : α → Prop} {Q : β → Prop}
    (hlen : l.length = m.length) (h : ∀ p ∈ l.zip m, P p.1 ↔ Q p.2) : (∀ a ∈ l, P a) ↔ ∀ b ∈ m, Q b :=
  calc (∀ a ∈ l, P a)
    _ ↔ ∀ p ∈ l.zip m, P p.1 := by rw [← List.forall_mem_map (f := Prod.fst), List.map_fst_zip hlen.le]
    _ ↔ ∀ p ∈ l.zip m, Q p.2 := forall₂_congr h
    _ ↔ ∀ b ∈ m, Q b := by rw [← List.forall_mem_map (f := Prod.snd), List.map_snd_zip hlen.ge]

theorem unselected_opRows_iff (w : Word) : (∀ r ∈ engineRows ++ vectorRows, ¬ r.selects w = true) ↔
    ∀ p ∈ opFields, (w.extractLsb' 28 4).toNat = p.1 → w.extractLsb' p.2 (28 - p.2) ≠ 0 := by
  refine forall_mem_iff_of_zip rfl fun p hp => ?_
  obtain ⟨hle, hmask, hvalue, hcode⟩ := opFields_spec p hp
  rw [selects_iff_field hle hmask hvalue hcode, toNat_opcode, not_and]

theorem unselected_queryRows_iff (w : Word) : (∀ r ∈ queryRows, ¬ r.selects w = true) ↔
    ∀ p ∈ selFields, (w.extractLsb' 28 4).toNat = 7 → (w.extractLsb' 24 4).toNat = p.1 →
      w.extractLsb' p.2 (24 - p.2) ≠ 0 := by
  refine forall_mem_iff_of_zip rfl fun p hp => ?_
  obtain ⟨hle, hmask, hvalue, hcode, hsel⟩ := selFields_spec p hp
  have hlt : (w.extractLsb' 24 4).toNat < 16 := BitVec.isLt _
  rw [selects_iff_field hle hmask hvalue hcode, toNat_opcode_selector,
    show 16 * (w.extractLsb' 28 4).toNat + (w.extractLsb' 24 4).toNat = 16 * 7 + p.2.1 ↔
      (w.extractLsb' 28 4).toNat = 7 ∧ (w.extractLsb' 24 4).toNat = p.2.1 by omega,
    and_assoc, not_and, not_and]

theorem decodeCommand_eq_none_iff (w : Word) : decodeCommand w = none ↔
    (∀ p ∈ opFields, (w.extractLsb' 28 4).toNat = p.1 → w.extractLsb' p.2 (28 - p.2) ≠ 0) ∧
    ∀ p ∈ selFields, (w.extractLsb' 28 4).toNat = 7 → (w.extractLsb' 24 4).toNat = p.1 →
      w.extractLsb' p.2 (24 - p.2) ≠ 0 := by
  rw [← unselected_opRows_iff, ← unselected_queryRows_iff, decodeCommand, Option.map_eq_none_iff, List.find?_eq_none,
    commandRows, List.forall_mem_append, List.forall_mem_append, List.forall_mem_append, and_right_comm]

/-- Settles O4, by the opcode and a query's selector: each leaves at most one row, and the bits that row tests below are
the field that the format shows as 0. -/
theorem illegalWordsAreTheReservedOnes : Obligations.IllegalWordsAreTheReservedOnes := by
  intro w
  have hop : (w.extractLsb' 28 4).toNat < 16 := BitVec.isLt _
  have hsel : (w.extractLsb' 24 4).toNat < 16 := BitVec.isLt _
  rw [decodeCommand_eq_none_iff, reservedWord]
  generalize (w.extractLsb' 28 4).toNat = op at hop
  generalize (w.extractLsb' 24 4).toNat = sel at hsel
  simp only [opFields, selFields, List.forall_mem_cons, List.not_mem_nil, false_implies, implies_true, and_true,
    Nat.reduceSub]
  obtain below | rfl | above : op < 7 ∨ op = 7 ∨ 7 < op := by omega
  · interval_cases op <;> simp only [Nat.reduceEqDiff, false_implies, true_implies, true_and, and_true]
  · simp only [Nat.reduceEqDiff, false_implies, true_implies, true_and]
    interval_cases sel <;> simp only [Nat.reduceEqDiff, false_implies, true_implies, true_and, and_true]
  · interval_cases op <;> simp only [Nat.reduceEqDiff, false_implies, true_implies, true_and, and_true]

/-! ### The assembler (30_encoding.md R109, R111) -/

theorem decodeCommand_of_encode (h : encode i = .command w) : decodeCommand w = some i := by
  have hdecode := encodeThenDecodeGivesInstruction i
  rwa [h] at hdecode

theorem asmWord_of_bytes (base : Nat) {a b : Nat} (h : (isByteOperand a && isByteOperand b) = true)
    (hbase : BitVec.ofNat 32 base &&& 0x0000FFFF#32 = 0) :
    asmWord base a b = wordB (BitVec.ofNat 32 base) (BitVec.ofNat 8 a) (BitVec.ofNat 8 b) := by
  obtain ⟨ha, hb⟩ := Bool.and_eq_true_iff.1 h
  exact asmWord_eq_wordB base a b (of_decide_eq_true ha) (of_decide_eq_true hb) hbase

theorem decodeCommand_staticAppendWords {channels : List Nat} {colour : Nat}
    (hchannels : channels.all isByteOperand = true) (hcolour : isByteOperand colour = true) :
    (staticAppendWords channels colour).map decodeCommand =
      channels.map fun c => some (.staticAppend (BitVec.ofNat 8 c) (BitVec.ofNat 8 colour)) := by
  rw [staticAppendWords, List.map_map]
  refine List.map_congr_left fun c hc => ?_
  have hbytes := Bool.and_eq_true_iff.2 ⟨List.all_eq_true.1 hchannels c hc, hcolour⟩
  exact decodeCommand_of_encode (congrArg _ (asmWord_of_bytes 0x50000000 hbytes rfl).symm)

theorem assemble_of_wellFormed (line : AsmLine) (h : line.wellFormed = true) :
    (assemble line).map (·.map decodeCommand) = some (lineInstructions line) := by
  have oneWord {w : Word} {i : Instr} (hw : encode i = .command w) : some [decodeCommand w] = some [some i] :=
    congrArg (some [·]) (decodeCommand_of_encode hw)
  unfold assemble
  rw [if_pos h]
  cases line with
  | toDmx a b => exact oneWord (congrArg _ (asmWord_of_bytes 0x20000000 h rfl).symm)
  | setValue c x => exact oneWord (congrArg _ (asmWord_of_bytes 0x30010000 h rfl).symm)
  | staticAppend c k => exact oneWord (congrArg _ (asmWord_of_bytes 0x50000000 h rfl).symm)
  | bvPush c x => exact oneWord (congrArg _ (asmWord_of_bytes 0x80010000 h rfl).symm)
  | setGain g => exact oneWord (congrArg _ (asmWord_eq_wordG 0x40000000 g (of_decide_eq_true h) rfl).symm)
  | getDyn x => exact oneWord (congrArg _ (asmWord_eq_wordX 0x74000000 x (of_decide_eq_true h) rfl).symm)
  | bvRead x => exact oneWord (congrArg _ (asmWord_eq_wordX 0xE0000000 x (of_decide_eq_true h) rfl).symm)
  | word w => rfl
  | setStaticScene rs gs bs r g b =>
    simp only [AsmLine.wellFormed, Bool.and_eq_true] at h
    obtain ⟨⟨⟨⟨⟨hrs, hgs⟩, hbs⟩, hr⟩, hg⟩, hb⟩ := h
    simp only [Option.map_some, List.map_append, lineInstructions, decodeCommand_staticAppendWords hrs hr,
      decodeCommand_staticAppendWords hgs hg, decodeCommand_staticAppendWords hbs hb]
  | readCc | setValueUnset | switchSceneStatic | switchSceneDynamic | getGain | getScene | getFilter | getStatus
  | bvPushUnset | bvPop | bvSize | bvCapacity | bvMaxSize | bvEmpty => exact oneWord rfl

/-- Settles O6: an accepted line's words are the encodings of its instructions. -/
theorem assembledLinesDecode : Obligations.AssembledLinesDecode := by
  refine fun line => ⟨assemble_of_wellFormed line, fun refused => ?_⟩
  unfold assemble
  rw [refused]
  rfl

/-! ### The receive-stream frame (30_encoding.md R108) -/

theorem statusByte_eq (n : BitVec 4) : statusByte n = BitVec.ofNat 8 (0xB0 + n.toNat) := by
  revert n
  decide

theorem toNat_dataByte (x : BitVec 7) : (x.setWidth 8).toNat = x.toNat := BitVec.toNat_setWidth_of_le (by decide)

/-- Settles O22: the frame's bytes in plain numbers. -/
theorem frameArrivesOnReceiveStream : Obligations.FrameArrivesOnReceiveStream := by
  intro n c v s
  rw [← statusByte_eq, BitVec.ofNat_toNat, BitVec.ofNat_toNat]
  rfl

/-- For a FILTER in its range (10_state.md R31), a channel's status byte is FILTER exactly when it has FILTER's low
nibble. -/
theorem statusByte_eq_filter_iff (n : BitVec 4) (h : 0xB0 ≤ s.filter.toNat ∧ s.filter.toNat ≤ 0xBF) :
    statusByte n = s.filter ↔ n = s.filter.extractLsb' 0 4 := by
  rw [statusByte_eq, ← BitVec.toNat_inj, ← BitVec.toNat_inj, BitVec.toNat_ofNat, BitVec.extractLsb'_toNat,
    Nat.shiftRight_zero]
  omega

/-! ### READ_CC when nothing arrives (42_frame_parser.md R192) -/

section Quiet

variable {skipped tail rest : List Byte} {d1 d2 : Byte} (quiet : s.quiet = true)

include quiet

/-- The scan ends behind the sync byte. -/
theorem execReadCc_of_skipped (hrx : s.rx = skipped ++ s.filter :: tail) (hskip : s.filter ∉ skipped) :
    execReadCc s = runParser (tail.length + 3) { s with rx := tail, pstate := .avail } := by
  have hfuel : parserFuel s = skipped.length + (tail.length + 3 + 1) := by
    rw [parserFuel, hrx, arrivingBytes_of_quiet quiet]
    simp only [List.length_append, List.length_cons]
    omega
  have hsync : parserStep { s with rx := s.filter :: tail, pstate := .scan } =
      .next { s with rx := tail, pstate := .avail } := parserStep_scan_sync quiet rfl rfl
  rw [execReadCc, hfuel]
  exact (runParser_scan_skip skipped _ _ { s with pstate := .scan } quiet rfl hrx hskip).trans
    (runParser_succ (fun idle => by cases idle) hsync)

/-- With two bytes behind the sync byte, the command ends when both are popped and tested. -/
theorem execReadCc_of_two (hrx : s.rx = skipped ++ s.filter :: d1 :: d2 :: rest) (hskip : s.filter ∉ skipped) :
    execReadCc s = .next ({ s with rx := rest }.harvested d1 d2) := by
  have havail : parserStep { s with rx := d1 :: d2 :: rest, pstate := .avail } =
      .next { s with rx := d1 :: d2 :: rest, pstate := .harvest } := parserStep_avail quiet rfl
  have hharvest : parserStep { s with rx := d1 :: d2 :: rest, pstate := .harvest } =
      .next ({ s with rx := rest }.harvested d1 d2) := parserStep_harvest quiet rfl rfl
  rw [execReadCc_of_skipped quiet hrx hskip, runParser_succ (fun idle => by cases idle) havail,
    runParser_succ (fun idle => by cases idle) hharvest]
  exact runParser_idle (harvested_pstate _ _)

theorem execReadCc_of_message {c v : BitVec 7} (hrx : s.rx = skipped ++ s.filter :: c.setWidth 8 :: v.setWidth 8 :: rest)
    (hskip : s.filter ∉ skipped) : execReadCc s = .next { s with
      resp := BitVec.ofNat 32 (0x10000 + c.toNat * 256 + v.toNat), rx := rest, pstate := .idle } := by
  rw [execReadCc_of_two quiet hrx hskip, harvested_of_data (by rw [toNat_dataByte]; omega)
    (by rw [toNat_dataByte]; omega), toNat_dataByte, toNat_dataByte]

/-- Without a sync byte the scan consumes everything (42_frame_parser.md R193). -/
theorem execReadCc_of_exhausted (hsync : s.filter ∉ s.rx) :
    execReadCc s = .next { s with resp := 0#32, rx := [], pstate := .idle } := by
  have hfuel : parserFuel s = s.rx.length + 3 := by rw [parserFuel, arrivingBytes_of_quiet quiet]
  have hempty : parserStep { s with rx := [], pstate := .scan } =
      .next { s with resp := 0#32, rx := [], pstate := .idle } := parserStep_scan_empty quiet rfl rfl
  rw [execReadCc, hfuel]
  exact (runParser_scan_skip s.rx [] 3 { s with pstate := .scan } quiet rfl (List.append_nil _).symm hsync).trans
    ((runParser_succ (fun idle => by cases idle) hempty).trans (runParser_idle rfl))

end Quiet

/-- A data byte is no status byte, so it is not taken for FILTER. -/
theorem filter_ne_dataByte (h : 0xB0 ≤ s.filter.toNat) (x : BitVec 7) : s.filter ≠ x.setWidth 8 := by
  intro heq
  rw [heq, toNat_dataByte] at h
  omega

/-- Settles O23: the frame's status byte is FILTER, and its data bytes are the message, or no byte of it is FILTER. -/
theorem readCcRecoversArrivedFrame : Obligations.ReadCcRecoversArrivedFrame := by
  intro n c v s hinv quiet hrx
  have harrival : exec (.midiCcFrame n c v) s = .next { s with rx := encodeFrame n c v } := by
    change Host.Outcome.next (s.rxAppend _) = _
    rw [State.rxAppend, hrx, List.nil_append]
  refine ⟨_, harrival, ?_⟩
  change execReadCc _ = _
  by_cases hn : n = s.filter.extractLsb' 0 4
  · have hstatus := (statusByte_eq_filter_iff n hinv.filter_legal).2 hn
    rw [if_pos hn, execReadCc_of_message (s := { s with rx := encodeFrame n c v }) (skipped := []) quiet
      (congrArg (· :: _) hstatus) List.not_mem_nil]
    simp only [hrx, hinv.parser_idle]
  · have hstatus : s.filter ≠ statusByte n := fun h => hn ((statusByte_eq_filter_iff n hinv.filter_legal).1 h.symm)
    have hsync : s.filter ∉ encodeFrame n c v := by
      simp [encodeFrame, hstatus, filter_ne_dataByte hinv.filter_legal.1]
    rw [if_neg hn, execReadCc_of_exhausted (s := { s with rx := encodeFrame n c v }) quiet hsync]
    simp only [hrx, hinv.parser_idle]

/-! ### POLL (30_encoding.md R110) -/

theorem issue_of_encode (h : encode i = .command w) (s : State) : issue w s = exec i s := by
  rw [issue, decodeCommand_of_encode h]

theorem poll_of_readCc (h : exec .readCc s = .next t) : poll s =
    if t.resp.getLsbD 16 then
      Result.thenDo (exec (.toDmx (fieldHigh t.resp) (fieldLow t.resp)) t) fun u => issue (0x30000000#32 ||| u.resp) u
    else .next t := by
  rw [poll, issue_of_encode (i := .readCc) rfl, h, Result.thenDo,
    issue_of_encode (i := .toDmx (fieldHigh t.resp) (fieldLow t.resp)) rfl]

theorem poll_of_silence (h : exec .readCc s = .next t) (silent : t.resp.getLsbD 16 = false) : poll s = .next t := by
  rw [poll_of_readCc h, silent]
  rfl

/-- A slot's response word completes a SET_VALUE opcode to the slot's word. -/
theorem or_slotWord (op : Word) (x : Slot) : op ||| slotWord x = wordS op x.set x.ch x.intensity := by
  rw [slotWord, wordS, BitVec.or_assoc, BitVec.or_assoc, BitVec.or_assoc]

theorem toDmx_dataBytes (c v : BitVec 7) :
    toDmx (c.setWidth 8) (v.setWidth 8) = makeSlot (c.setWidth 8) (BitVec.ofNat 8 (v.toNat * 2)) := by
  have dataByte (x : BitVec 7) : min (x.setWidth 8).toNat 127 = x.toNat := by
    rw [toNat_dataByte]
    omega
  rw [toDmx, dataByte, dataByte, BitVec.ofNat_toNat]

theorem setValue_respond (s : State) (w : Word) (x : Slot) : (s.respond w).setValue x = (s.setValue x).respond w := by
  unfold State.setValue
  rw [apply_ite (State.respond · w)]
  rfl

/-- SET_VALUE does not read RESP, which it writes. -/
theorem exec_setValue_respond (set : Bool) (c x : BitVec 8) (s : State) (w : Word) :
    exec (.setValue set c x) (s.respond w) = exec (.setValue set c x) s := by
  simp only [exec, execSetValue, setValue_respond]
  rfl

/-- What a READ_CC answers for a message, as a word of format B. -/
theorem message_eq_wordB (c v : BitVec 7) : BitVec.ofNat 32 (0x10000 + c.toNat * 256 + v.toNat) =
    wordB 0x00010000#32 (c.setWidth 8) (v.setWidth 8) := by
  rw [← toNat_dataByte, ← toNat_dataByte v, ← respCc_eq]
  rfl

theorem poll_of_message (h : exec .readCc s = .next t) {c v : BitVec 7}
    (hresp : t.resp = BitVec.ofNat 32 (0x10000 + c.toNat * 256 + v.toNat)) :
    poll s = exec (.setValue true (c.setWidth 8) (BitVec.ofNat 8 (v.toNat * 2))) t := by
  rw [message_eq_wordB] at hresp
  have hvalid : t.resp.getLsbD 16 = true := by
    rw [hresp, wordB]
    simp
  have hexpand : exec (.toDmx (c.setWidth 8) (v.setWidth 8)) t =
      .next (t.respond (slotWord (makeSlot (c.setWidth 8) (BitVec.ofNat 8 (v.toNat * 2))))) := by
    rw [← toDmx_dataBytes]
    rfl
  rw [poll_of_readCc h, if_pos hvalid, hresp, fieldHigh_wordB _ _ _ rfl, fieldLow_wordB _ _ _ rfl, hexpand,
    Result.thenDo, State.respond_resp, or_slotWord]
  exact (issue_of_encode rfl _).trans (exec_setValue_respond ..)

/-- Settles O52: READ_CC's response decides whether POLL goes on, and RX decides READ_CC's response. -/
theorem pollFeedsSceneEngine : Obligations.PollFeedsSceneEngine := by
  refine ⟨fun s t h => ⟨poll_of_silence h, fun c v => poll_of_message h⟩, fun s skipped rest quiet hskip =>
    ⟨fun c v hrx => ?_, fun hrx => ?_⟩⟩
  · rw [poll_of_message (execReadCc_of_message quiet hrx hskip) rfl]
    exact exec_setValue_respond _ _ _ { s with rx := rest, pstate := .idle } _
  · rw [← hrx] at hskip
    exact poll_of_silence (execReadCc_of_exhausted quiet hskip) BitVec.getLsbD_zero

/-! ### SET_STATIC_SCENE (30_encoding.md R111) -/

/-- A push puts the slot at the end of the static scene, cut to 128 entries (40_bounded_vector.md R141). -/
theorem staticScene_bvPush (h : s.StoreBounds) (v : Slot) :
    (s.bvPush v).staticScene = (s.staticScene ++ [v]).take 128 := by
  have hcap := h.cap_nat
  have hsize := h.size_le_cap
  have hlen : s.staticScene.length = s.ssSize.toNat := by
    rw [State.staticScene, List.length_take, Vector.length_toList]
    omega
  rw [bvPush_eq h]
  split
  · next full => rw [List.take_left' (hlen.trans full)]
  · next room =>
    have hgrown : (BitVec.ofNat 8 (s.ssSize.toNat + 1)).toNat = s.ssSize.toNat + 1 := by
      rw [BitVec.toNat_ofNat]
      omega
    have hin : s.ssSize.toNat < (s.ssData.toList.set s.ssSize.toNat v).length := by
      rw [List.length_set, Vector.length_toList]
      omega
    rw [List.take_of_length_le (by rw [List.length_append, hlen, List.length_singleton]; omega)]
    simp only [State.staticScene, hgrown, Vector.toList_setIfInBounds]
    rw [List.take_succ_eq_append_getElem hin, List.getElem_set_self, List.take_set_of_le le_rfl]

/-- Nothing but the static-scene store and RESP differs. -/
def SameButStore (s t : State) : Prop :=
  { t with ssData := s.ssData, ssSize := s.ssSize, ssCap := s.ssCap, resp := s.resp } = s

theorem SameButStore.trans (h : SameButStore s t) (h' : SameButStore t u) : SameButStore s u := by
  unfold SameButStore at h'
  rw [← h'] at h
  exact h

theorem SameButStore.bvPush (s : State) (v : Slot) : SameButStore s (s.bvPush v) := by
  unfold SameButStore State.bvPush State.bvStore State.bvGrow
  split <;> split <;> rfl

/-- `t` is `s` with the entries on channels up to 127 appended to the static scene, cut to 128. -/
structure Appended (entries : List Slot) (s t : State) : Prop where
  scene : t.staticScene = (s.staticScene ++ entries.filter fun x => decide (x.ch.toNat ≤ 127)).take 128
  inv : t.Inv
  frame : SameButStore s t

theorem Appended.none (h : s.Inv) : Appended [] s s where
  scene := by rw [List.filter_nil, List.append_nil, List.take_of_length_le (staticScene_length_le s)]
  inv := h
  frame := rfl

theorem take_take_append {α : Type} (n : Nat) (l r : List α) : (l.take n ++ r).take n = (l ++ r).take n := by
  rw [List.take_append, List.take_append, List.take_take, Nat.min_self, List.length_take,
    show n - min n l.length = n - l.length by omega]

theorem Appended.trans {a b : List Slot} (h : Appended a s t) (h' : Appended b t u) : Appended (a ++ b) s u where
  scene := by rw [h'.scene, h.scene, take_take_append, List.filter_append, List.append_assoc]
  inv := h'.inv
  frame := h.frame.trans h'.frame

theorem Appended.respond {entries : List Slot} (h : Appended entries s t) (w : Word) : Appended entries s (t.respond w) :=
  ⟨h.scene, h.inv.respond w, h.frame⟩

theorem filter_entry (a b : Byte) : [makeSlot a b].filter (fun x => decide (x.ch.toNat ≤ 127)) =
    if a.toNat ≤ 127 then [makeSlot a b] else [] := by
  simp [List.filter_cons, makeSlot]

theorem Appended.push (h : s.Inv) {a : Byte} (b : Byte) (accepted : a.toNat ≤ 127) :
    Appended [makeSlot a b] s (s.bvPush (makeSlot a b)) where
  scene := by rw [filter_entry, if_pos accepted, staticScene_bvPush h.store_bounds]
  inv := h.bvPush _ fun unset => by cases unset
  frame := .bvPush s _

theorem Appended.skip (h : s.Inv) {a : Byte} (b : Byte) (refused : ¬ a.toNat ≤ 127) : Appended [makeSlot a b] s s where
  scene := by
    rw [filter_entry, if_neg refused]
    exact (Appended.none h).scene
  inv := h
  frame := rfl

/-- STATIC_APPEND of one entry (43_scene_engine.md R226). -/
theorem execStaticAppend_appended (h : s.Inv) (a b : Byte) :
    ∃ t, exec (.staticAppend a b) s = .next t ∧ Appended [makeSlot a b] s t := by
  refine ⟨_, rfl, Appended.respond ?_ respNone⟩
  split
  · next accepted => exact .push h b ((channelAccepted_iff a).1 accepted)
  · next refused => exact .skip h b (mt (channelAccepted_iff a).2 refused)

/-- Issuing STATIC_APPEND words appends their entries. -/
theorem issueAll_staticAppend (entries : List (Byte × Byte)) (h : s.Inv) :
    ∃ t, issueAll (entries.map fun e => wordB 0x50000000#32 e.1 e.2) s = .next t ∧
      Appended (entries.map fun e => makeSlot e.1 e.2) s t := by
  induction entries generalizing s with
  | nil => exact ⟨s, rfl, .none h⟩
  | cons e rest ih =>
    obtain ⟨u, hexec, hone⟩ := execStaticAppend_appended h e.1 e.2
    obtain ⟨t, hrun, hrest⟩ := ih hone.inv
    refine ⟨t, ?_, hone.trans hrest⟩
    rw [List.map_cons, issueAll, issue_of_encode (i := .staticAppend e.1 e.2) rfl, hexec]
    exact hrun

/-- Settles O53: the expansion is one list of STATIC_APPEND words, those of the entries of red, then green, then blue. -/
theorem setStaticSceneAppendsLists : Obligations.SetStaticSceneAppendsLists := by
  intro reds greens blues r g b s h
  obtain ⟨t, hrun, hresult⟩ := issueAll_staticAppend (reds.map (·, r) ++ greens.map (·, g) ++ blues.map (·, b)) h
  simp only [List.map_append, List.map_map] at hrun hresult
  exact ⟨t, hrun, hresult.scene, hresult.inv, hresult.frame⟩

end Sys2Proof.Machine

/-! PROOFS of the family 40_bounded_vector.md: BV_PUSH, BV_POP and BV_READ as one equation per case, the fields of a
slot's response word, and the store's read after write. -/

namespace Sys2Proof.Machine

variable {s : State}

/-! ### The counts and the empty test (40_bounded_vector.md R144 to R147) -/

theorem respVal_eq {n : Nat} (v : BitVec n) : respVal v = BitVec.ofNat 32 v.toNat := (BitVec.ofNat_toNat 32 v).symm

/-- Settles O46: each command's response is one value or test of the store. -/
theorem vectorCountsAreAnswered : Obligations.VectorCountsAreAnswered := by
  refine ⟨decodeCommand_of_encode rfl, decodeCommand_of_encode rfl, decodeCommand_of_encode rfl,
    decodeCommand_of_encode rfl, fun s => ⟨?_, ?_, rfl, ?_⟩⟩
  · rw [← respVal_eq]
    rfl
  · rw [← respVal_eq]
    rfl
  · simp only [← storeEmpty_iff]
    rfl

/-! ### BV_PUSH and BV_POP (40_bounded_vector.md R141 to R143) -/

theorem exec_bvPush_of_full (h : s.StoreBounds) (full : s.ssSize.toNat = 128) (set : Bool) (c x : BitVec 8) :
    exec (.bvPush set c x) s = .next (s.respond respNone) := by
  rw [exec, execBvPush, bvPush_eq h, if_pos full]

theorem exec_bvPush_of_room (h : s.StoreBounds) (room : s.ssSize.toNat ≠ 128) (set : Bool) (c x : BitVec 8) :
    exec (.bvPush set c x) s = .next { s with
      ssData := s.ssData.setIfInBounds s.ssSize.toNat (slotOperand set c x)
      ssSize := BitVec.ofNat 8 (s.ssSize.toNat + 1)
      ssCap := if s.ssSize = s.ssCap then BitVec.ofNat 8 (2 * s.ssCap.toNat) else s.ssCap
      resp := respNone } := by
  rw [exec, execBvPush, bvPush_eq h, if_neg room]
  rfl

/-- Settles O43: the row's fields are the operands, and a push is dropped at 128 entries only. -/
theorem bvPushAppendsGrowsOrDrops : Obligations.BvPushAppendsGrowsOrDrops := by
  refine ⟨fun w shown => decodeCommand_of_row 11 (by decide) shown rfl, fun set c x s h => ?_⟩
  split
  · next full => exact exec_bvPush_of_full h full set c x
  · next room => exact exec_bvPush_of_room h room set c x

theorem exec_bvPop_of_empty (empty : s.ssSize.toNat = 0) : exec .bvPop s = .next (s.respond respNone) := by
  rw [exec, execBvPop, bvPop_eq, if_pos empty]

theorem exec_bvPop_of_entry (entry : s.ssSize.toNat ≠ 0) : exec .bvPop s = .next { s with
    ssSize := BitVec.ofNat 8 (s.ssSize.toNat - 1)
    ssData := s.ssData.setIfInBounds (s.ssSize.toNat - 1) .default
    resp := respNone } := by
  rw [exec, execBvPop, bvPop_eq, if_neg entry]
  rfl

/-- Settles O44: a pop does nothing on an empty store only. -/
theorem bvPopRemovesLastEntry : Obligations.BvPopRemovesLastEntry := by
  refine ⟨decodeCommand_of_encode rfl, fun s => ?_⟩
  split
  · next empty => exact exec_bvPop_of_empty empty
  · next entry => exact exec_bvPop_of_entry entry

/-- Clearing a written entry that was DEFAULT restores the scene array. -/
theorem clear_write_of_vacant {v : Vector Slot 128} {i : Nat} (vacant : slotAt v i = .default) (x : Slot) :
    (v.setIfInBounds i x).setIfInBounds i .default = v := by
  refine scene_ext fun j hj => ?_
  by_cases hij : i = j
  · subst hij
    rw [slotAt_write_same hj, vacant]
  · rw [slotAt_write_other hij, slotAt_write_other hij]

/-- The size after a push on a store with room. -/
theorem toNat_size_succ (room : s.ssSize.toNat < 128) :
    (BitVec.ofNat 8 (s.ssSize.toNat + 1)).toNat = s.ssSize.toNat + 1 :=
  Nat.mod_eq_of_lt (by omega)

/-- Settles O45: the pop goes back to the old size and clears the pushed entry, which the invariant had as DEFAULT. -/
theorem popUndoesPush : Obligations.PopUndoesPush := by
  intro set c x s t u h room hpush hpop
  rw [exec_bvPush_of_room h.store_bounds room.ne] at hpush
  cases hpush
  have hsize := toNat_size_succ room
  rw [exec_bvPop_of_entry (hsize.trans_ne (Nat.succ_ne_zero _))] at hpop
  cases hpop
  simp only [hsize, Nat.add_sub_cancel, BitVec.ofNat_toNat, BitVec.setWidth_eq,
    clear_write_of_vacant (h.store_vacant _ le_rfl)]
  rfl

/-! ### BV_READ (40_bounded_vector.md R148) -/

theorem exec_bvRead_below {x : BitVec 7} (below : x.toNat < s.ssSize.toNat) :
    exec (.bvRead x) s = .next (s.respond (slotWord (slotAt s.ssData x.toNat))) := if_pos below

theorem exec_bvRead_beyond {x : BitVec 7} (beyond : s.ssSize.toNat ≤ x.toNat) :
    exec (.bvRead x) s = .next (s.raiseFault .bvIndex) := if_neg beyond.not_gt

/-- A slot's response word is a word of format S without an opcode (30_encoding.md R107). -/
theorem slotWord_eq_wordS (x : Slot) : slotWord x = wordS 0 x.set x.ch x.intensity :=
  BitVec.zero_or.symm.trans (or_slotWord 0 x)

theorem slotWord_high (x : Slot) : (slotWord x).extractLsb' 17 15 = 0 := by
  have hclear : slotWord x &&& 0xFFFE0000#32 = 0 := by
    rw [slotWord_eq_wordS, wordS_and _ _ _ _ _ (by decide)]
    exact BitVec.zero_and
  have hfield := congrArg (BitVec.extractLsb' 17 15) hclear
  rwa [BitVec.extractLsb'_and, show BitVec.extractLsb' 17 15 0xFFFE0000#32 = BitVec.allOnes 15 from rfl,
    BitVec.and_allOnes] at hfield

/-- Settles O47: the fields of the response word are those of the entry, and an index beyond raises BV_INDEX. -/
theorem bvReadAnswersSlotOrFaults : Obligations.BvReadAnswersSlotOrFaults := by
  refine ⟨fun w shown => decodeCommand_of_row 17 (by decide) shown rfl, fun x s =>
    ⟨fun below => ?_, exec_bvRead_beyond⟩⟩
  obtain ⟨hset, hch, hintensity⟩ := slotFields_wordS 0 _ _ _ rfl
  rw [← slotWord_eq_wordS] at hset hch hintensity
  exact ⟨_, exec_bvRead_below below, rfl, slotWord_high _, hset, hch, hintensity⟩

/-- A set slot's response word is the word of a message with the same bytes. -/
theorem slotWord_makeSlot (c x : BitVec 8) :
    slotWord (makeSlot c x) = BitVec.ofNat 32 (0x10000 + c.toNat * 256 + x.toNat) := by
  have hset : (BitVec.ofBool true).setWidth 32 <<< 16 = 0x00010000#32 := by decide
  simp only [slotWord, makeSlot, hset, ← respCc_eq, respCc]

/-- Settles O48: the old size is an index below the new size, and the entry there is the pushed slot. -/
theorem readAfterPushAnswersPushedSlot : Obligations.ReadAfterPushAnswersPushedSlot := by
  intro c x k s t h hk hpush
  have room : s.ssSize.toNat < 128 := hk.trans_lt k.isLt
  rw [exec_bvPush_of_room h room.ne] at hpush
  cases hpush
  have hsize := toNat_size_succ room
  refine ⟨_, exec_bvRead_below (show k.toNat < (BitVec.ofNat 8 _).toNat by omega), ?_, rfl⟩
  rw [State.respond_resp, ← hk, slotAt_write_same room]
  exact slotWord_makeSlot c x

end Sys2Proof.Machine

/-! PROOFS of the family 41_dmx_slot.md: the clamped bytes of a conversion and its response word. -/

namespace Sys2Proof.Machine

/-- Both clamped values fit in a byte, so the response word is the set slot's in plain numbers (41_dmx_slot.md R171). -/
theorem slotWord_toDmx (a b : BitVec 8) :
    slotWord (toDmx a b) = BitVec.ofNat 32 (0x10000 + min a.toNat 127 * 256 + min b.toNat 127 * 2) := by
  have hchannel : (BitVec.ofNat 8 (min a.toNat 127)).toNat = min a.toNat 127 := Nat.mod_eq_of_lt (by omega)
  have hintensity : (BitVec.ofNat 8 (min b.toNat 127 * 2)).toNat = min b.toNat 127 * 2 := Nat.mod_eq_of_lt (by omega)
  rw [toDmx, slotWord_makeSlot, hchannel, hintensity]

/-- Settles O32: the row's fields are the operands, and TO_DMX responds with the converted slot's word. -/
theorem toDmxClampsAndDoubles : Obligations.ToDmxClampsAndDoubles := by
  refine ⟨fun w shown => decodeCommand_of_row 1 (by decide) shown rfl, fun a b s => ?_⟩
  rw [← slotWord_toDmx]
  rfl

end Sys2Proof.Machine

/-! PROOFS of the family 42_frame_parser.md: FILTER over a step, READ_CC on each kind of stream when nothing arrives,
and its response under any arrivals. -/

namespace Sys2Proof.Machine

variable {s t : State}

/-! ### The sync filter (42_frame_parser.md R190) -/

theorem step_filter_of_no_reset (hr : s.resetNext = false) (h : step s = .next t) : t.filter = s.filter := by
  rcases step_exec_or_registers_stay hr h with ⟨rest, i, hexec⟩ | same
  · exact (instructionsWriteOnlyTheirColumns i { s with timeline := rest } t hexec).1
  · rw [same]

theorem step_filter_of_reset {p : Int} {rest : List PortAction} (htime : s.timeline = .reset p :: rest)
    (h : step s = .next t) : t.filter = syncFilter p := by
  rw [step_of_undecoded htime rfl] at h
  cases h
  exact State.applyReset_filter _ p

/-- Settles O21: only a reset writes FILTER, with the clamped channel's status byte. -/
theorem filterComputedAtResetOnly : Obligations.FilterComputedAtResetOnly := by
  refine fun s t h => ⟨fun hr => step_filter_of_no_reset hr h, fun p rest htime => ?_⟩
  rw [step_filter_of_reset htime h]
  exact ⟨rfl, syncFilter_low, syncFilter_high, syncFilter_mid⟩

/-! ### READ_CC when nothing arrives (42_frame_parser.md R192 to R195) -/

/-- Settles O24: both bytes behind the sync byte are data bytes. -/
theorem readCcRecoversMessage : Obligations.ReadCcRecoversMessage := by
  intro s skipped rest d1 d2 quiet hrx hskip h1 h2
  exact (execReadCc_of_two quiet hrx hskip).trans (congrArg _ (harvested_of_data h1 h2))

/-- Settles O25: the scan ends on an empty stream. -/
theorem readCcScansPastEverything : Obligations.ReadCcScansPastEverything :=
  fun _ quiet hsync => execReadCc_of_exhausted quiet hsync

/-- Settles O26: the one test behind the sync byte counts fewer than two bytes. -/
theorem readCcLosesEarlySync : Obligations.ReadCcLosesEarlySync := by
  intro s skipped tail quiet hrx hskip hshort
  have havail : parserStep { s with rx := tail, pstate := .avail } =
      .next { s with resp := 0#32, rx := tail, pstate := .idle } :=
    (parserStep_avail (s := { s with rx := tail, pstate := .avail }) quiet rfl).trans (congrArg _ (if_pos hshort))
  calc execReadCc s
    _ = runParser (tail.length + 3) { s with rx := tail, pstate := .avail } := execReadCc_of_skipped quiet hrx hskip
    _ = runParser (tail.length + 2) { s with resp := 0#32, rx := tail, pstate := .idle } :=
      runParser_succ (fun idle => by cases idle) havail
    _ = .next { s with resp := 0#32, rx := tail, pstate := .idle } := runParser_idle rfl

theorem harvested_of_malformed {d1 d2 : Byte} (h : 128 ≤ d1.toNat ∨ 128 ≤ d2.toNat) :
    s.harvested d1 d2 = s.noMessage := by
  refine if_neg fun hdata => ?_
  rw [Bool.and_eq_true, isDataByte_iff, isDataByte_iff] at hdata
  omega

/-- Settles O27: the harvest tests the bytes only after it has popped both (decision D8). -/
theorem readCcDropsMalformedMessage : Obligations.ReadCcDropsMalformedMessage := by
  intro s skipped rest d1 d2 quiet hrx hskip hmalformed
  exact (execReadCc_of_two quiet hrx hskip).trans (congrArg _ (harvested_of_malformed hmalformed))

/-! ### READ_CC's response, whatever arrives (42_frame_parser.md R197) -/

/-- The word is RN, or RCC with `V = 1` and two data bytes (30_encoding.md R107). -/
def IsReadCcResponse (w : Word) : Prop :=
  w = 0#32 ∨ ∃ c v : BitVec 7, w = BitVec.ofNat 32 (0x10000 + c.toNat * 256 + v.toNat)

/-- When the parser is IDLE its response is one that READ_CC may give. -/
def AnsweredWhenIdle (s : State) : Prop := s.pstate = .idle → IsReadCcResponse s.resp

theorem isReadCcResponse_noMessage (s : State) : IsReadCcResponse s.noMessage.resp := .inl rfl

theorem isReadCcResponse_harvested (s : State) (d1 d2 : Byte) : IsReadCcResponse (s.harvested d1 d2).resp := by
  by_cases hdata : d1.toNat ≤ 127 ∧ d2.toNat ≤ 127
  · obtain ⟨h1, h2⟩ := hdata
    rw [harvested_of_data h1 h2]
    exact .inr ⟨BitVec.ofNatLT d1.toNat (by omega), BitVec.ofNatLT d2.toNat (by omega), rfl⟩
  · rw [harvested_of_malformed (by omega)]
    exact isReadCcResponse_noMessage s

/-- A scan turn that ends the command found no byte. -/
theorem scanStep_answered (hp : s.pstate = .scan) (h : s.scanStep = .next t) : AnsweredWhenIdle t := by
  by_cases hempty : s.deliver.rx.length = 0
  · rw [scanStep_of_empty hempty] at h
    cases h
    exact fun _ => isReadCcResponse_noMessage _
  · obtain ⟨b, u, hpop⟩ := rxPop_total (s := s.deliver) (by omega)
    have hscan : u.pstate = .scan := by rw [rxPop_pstate hpop, State.deliver_pstate, hp]
    rw [scanStep_of_pop hempty hpop] at h
    cases h
    intro idle
    split at idle
    · cases idle
    · rw [hscan] at idle
      cases idle

/-- The test for two more bytes ends the command only when it fails. -/
theorem availStep_answered (s : State) : AnsweredWhenIdle s.availStep := by
  unfold State.availStep
  split
  · exact fun _ => isReadCcResponse_noMessage _
  · intro idle
    cases idle

theorem harvestStep_answered (h : s.harvestStep = .next t) : AnsweredWhenIdle t := by
  unfold State.harvestStep at h
  split at h
  · cases h
  · split at h
    · cases h
    · cases h
      exact fun _ => isReadCcResponse_harvested _ _ _

theorem parserStep_answered (hp : s.pstate ≠ .idle) (h : parserStep s = .next t) : AnsweredWhenIdle t := by
  unfold parserStep at h
  cases hs : s.pstate with
  | idle => exact absurd hs hp
  | scan =>
    rw [hs] at h
    exact scanStep_answered hs h
  | avail =>
    rw [hs] at h
    cases h
    exact availStep_answered s
  | harvest =>
    rw [hs] at h
    exact harvestStep_answered h

/-- What holds before a run of the parser and is kept by every micro-step holds after it. -/
theorem runParser_keeps {P : State → Prop}
    (hstep : ∀ u v : State, u.pstate ≠ .idle → parserStep u = .next v → P u → P v) (fuel : Nat) (hs : P s)
    (h : runParser fuel s = .next t) : P t := by
  induction fuel generalizing s with
  | zero =>
    unfold runParser at h
    split at h
    · cases h
      exact hs
    · cases h
  | succ n ih =>
    by_cases hp : s.pstate = .idle
    · rw [runParser_idle hp] at h
      cases h
      exact hs
    · cases hu : parserStep s with
      | next u =>
        rw [runParser_succ hp hu] at h
        exact ih (hstep s u hp hu hs) h
      | fault => simp [runParser, hp, hu] at h
      | refused => simp [runParser, hp, hu] at h

/-- Settles O29: each micro-step that reaches IDLE has answered, and READ_CC ends in IDLE. -/
theorem readCcResponseIsNoneOrMessage : Obligations.ReadCcResponseIsNoneOrMessage := by
  intro s t h
  have hidle : t.pstate = .idle := by rw [(execReadCc_cases h).2]
  have hanswered : AnsweredWhenIdle t :=
    runParser_keeps (fun _ _ hp hstep _ => parserStep_answered hp hstep) _ (fun idle => by cases idle) h
  exact hanswered hidle

end Sys2Proof.Machine

/-! PROOFS of the family 43_scene_engine.md: every step answers, the scaler in plain numbers, each scene command as one
equation per case, and what the SINK holds after a switch. -/

namespace Sys2Proof.Machine

variable {s t : State}

/-! ### Every step answers (43_scene_engine.md R230, 60_exceptions.md R280, R284) -/

/-- READ_CC and BV_READ alone choose how they answer; every other instruction answers its operation's state. -/
theorem exec_next (i : Instr) (s : State) : ∃ t, exec i s = .next t := by
  cases i with
  | readCc => exact execReadCc_next s
  | bvRead x =>
    rcases Nat.lt_or_ge x.toNat s.ssSize.toNat with below | beyond
    · exact ⟨_, exec_bvRead_below below⟩
    · exact ⟨_, exec_bvRead_beyond beyond⟩
  | _ => exact ⟨_, rfl⟩

/-- Settles O12: a step settles at once or executes an instruction, and every instruction answers. -/
theorem everyStepAnswersNextState : Obligations.EveryStepAnswersNextState := by
  intro s
  unfold step
  cases fetch s with
  | run i u => exact exec_next i u
  | settle u => exact ⟨u, rfl⟩

/-! ### The gain scaler (43_scene_engine.md R220) -/

theorem scaled_le (x : BitVec 8) {gain : Nat} (hgain : gain ≤ 1024) : x.toNat * gain / 1024 ≤ x.toNat :=
  Nat.div_le_of_le_mul (Nat.mul_comm 1024 _ ▸ Nat.mul_le_mul_left _ hgain)

theorem scaled_unity (x : BitVec 8) : x.toNat * 1024 / 1024 = x.toNat := Nat.mul_div_cancel _ (by decide)

theorem toNat_scale {gain : BitVec 11} (hgain : gain.toNat ≤ 1024) (x : BitVec 8) :
    (scale gain x).toNat = x.toNat * gain.toNat / 1024 := by
  rw [scale_eq, BitVec.toNat_ofNat]
  exact Nat.mod_eq_of_lt ((scaled_le x hgain).trans_lt x.isLt)

/-- Settles O33: no legal gain amplifies, so the scaled value fits its byte and is exact. -/
theorem scalerIsExactFixedPoint : Obligations.ScalerIsExactFixedPoint := by
  intro gain x hgain
  have hexact := toNat_scale hgain x
  refine ⟨hexact, hexact ▸ scaled_le x hgain, fun unity => ?_, fun zero => ?_, by decide⟩
  · rw [scale_eq, unity, scaled_unity, BitVec.ofNat_toNat, BitVec.setWidth_eq]
  · rw [scale_eq, zero, Nat.mul_zero, Nat.zero_div]
    rfl

theorem litEvents_unity (scene : List Slot) :
    litEvents 1024 scene = (scene.filter (·.set)).map fun x => ⟨x.ch, x.intensity⟩ := by
  simp only [litEvents, scaled_unity, BitVec.ofNat_toNat, BitVec.setWidth_eq]

/-! ### SET_VALUE (43_scene_engine.md R223) -/

theorem setIfInBounds_of_lt (v : Vector Slot 128) {k : Nat} (hk : k < 128) (x : Slot) :
    v.setIfInBounds k x = v.set k x hk := by
  ext j hj
  rw [Vector.getElem_setIfInBounds hj, Vector.getElem_set]

theorem setValue_of_refused {x : Slot} (refused : x.set = false ∨ 127 < x.ch.toNat) : s.setValue x = s := by
  have hguard : ¬ (x.set && channelAccepted x.ch) = true := by
    rw [Bool.and_eq_true, channelAccepted_iff]
    rintro ⟨hset, hch⟩
    rcases refused with unset | beyond
    · rw [unset] at hset
      cases hset
    · omega
  rw [State.setValue, if_neg hguard]

/-- The event of a SET_VALUE in plain terms: the slot changed and the dynamic scene is active. -/
theorem setValueEvents_eq (s : State) (prev slot : Slot) : setValueEvents s prev slot =
    if prev ≠ slot ∧ s.activeDyn = true then
      [⟨slot.ch, BitVec.ofNat 8 (slot.intensity.toNat * s.gain.toNat / 1024)⟩]
    else [] := by
  have changed : (!slotEq slot prev && s.activeDyn) = true ↔ prev ≠ slot ∧ s.activeDyn = true := by
    rw [Bool.and_eq_true, Bool.not_eq_true', ← Bool.not_eq_true, slotEq_iff, eq_comm]
  simp only [setValueEvents, changed, scale_eq]

theorem setValue_of_accepted {x : Slot} (hset : x.set = true) (hch : x.ch.toNat < 128) : s.setValue x = { s with
    dyn := s.dyn.set x.ch.toNat x hch
    out := s.out ++
      if s.dyn[x.ch.toNat] ≠ x ∧ s.activeDyn = true then
        [⟨x.ch, BitVec.ofNat 8 (x.intensity.toNat * s.gain.toNat / 1024)⟩]
      else [] } := by
  have hguard : (x.set && channelAccepted x.ch) = true := by
    rw [Bool.and_eq_true, channelAccepted_iff]
    exact ⟨hset, Nat.le_of_lt_succ hch⟩
  rw [State.setValue, if_pos hguard, setValueEvents_eq, slotAt_of_lt hch, ← setIfInBounds_of_lt]
  rfl

theorem exec_setValue_of_refused {set : Bool} {c : BitVec 8} (refused : set = false ∨ 127 < c.toNat) (x : BitVec 8)
    (s : State) : exec (.setValue set c x) s = .next (s.respond respNone) := by
  have hrefused : (slotOperand set c x).set = false ∨ 127 < (slotOperand set c x).ch.toNat := by
    cases set with
    | false => exact .inl rfl
    | true => exact .inr (refused.resolve_left (by decide))
  rw [exec, execSetValue, setValue_of_refused hrefused]

theorem exec_setValue_of_accepted {c : BitVec 8} (hc : c.toNat < 128) (x : BitVec 8) (s : State) :
    exec (.setValue true c x) s = .next { s with
      dyn := s.dyn.set c.toNat ⟨true, c, x⟩ hc
      out := s.out ++
        if s.dyn[c.toNat] ≠ ⟨true, c, x⟩ ∧ s.activeDyn = true then
          [⟨c, BitVec.ofNat 8 (x.toNat * s.gain.toNat / 1024)⟩]
        else []
      resp := respNone } := by
  rw [exec, execSetValue, setValue_of_accepted (x := slotOperand true c x) rfl hc]
  rfl

/-- Settles O34: an operand is refused or accepted, and an accepted one is written and emitted if it changed. -/
theorem setValueWritesAndEmitsChanges : Obligations.SetValueWritesAndEmitsChanges :=
  ⟨fun _ shown => decodeCommand_of_row 2 (by decide) shown rfl,
    fun _ _ x s refused => exec_setValue_of_refused refused x s,
    fun _ x s hc => exec_setValue_of_accepted hc x s⟩

/-- The dedup (43_scene_engine.md R223): writing the slot that DYN already holds changes nothing. -/
theorem setValue_of_stored {x : Slot} (hset : x.set = true) (hch : x.ch.toNat < 128) (stored : s.dyn[x.ch.toNat] = x) :
    s.setValue x = s := by
  have hwrite : s.dyn.set x.ch.toNat x hch = s.dyn :=
    (congrArg (s.dyn.set x.ch.toNat · hch) stored.symm).trans (Vector.set_getElem_self hch)
  rw [setValue_of_accepted hset hch, hwrite, if_neg (fun changed => changed.1 stored), List.append_nil]

theorem setValue_idem (s : State) (x : Slot) : (s.setValue x).setValue x = s.setValue x := by
  by_cases accepted : x.set = true ∧ x.ch.toNat < 128
  · obtain ⟨hset, hch⟩ := accepted
    refine setValue_of_stored hset hch ?_
    rw [setValue_of_accepted hset hch]
    exact Vector.getElem_set_self hch
  · refine setValue_of_refused ?_
    rwa [← Bool.not_eq_true, ← Nat.not_le, ← not_and_or, ← Nat.lt_succ_iff]

/-- Settles O35: SET_VALUE's effect is idempotent and does not read RESP. -/
theorem repeatedSetValueIsSilent : Obligations.RepeatedSetValueIsSilent := by
  intro set c x s t h
  cases h
  rw [exec_setValue_respond, exec, execSetValue, setValue_idem]

/-! ### SET_GAIN (43_scene_engine.md R224, R225) -/

theorem exec_setGain_of_inside {g : BitVec 16} (inside : ((g.toNat : Int) - s.gain.toNat).natAbs ≤ 5) :
    exec (.setGain g) s = .next (s.respond respNone) := by
  have hzone : ¬ outsideDeadZone g s.gain = true := fun outside => (of_decide_eq_true outside).not_ge inside
  rw [exec, execSetGain, if_neg hzone]

theorem exec_setGain_of_outside {g : BitVec 16} (outside : ((g.toNat : Int) - s.gain.toNat).natAbs > 5) :
    exec (.setGain g) s = .next { s with
      gain := BitVec.ofNat 11 (min g.toNat 1024)
      out := s.out ++ litEvents (min g.toNat 1024) s.activeScene
      resp := respNone } := by
  have hzone : outsideDeadZone g s.gain = true := decide_eq_true outside
  have hgain : (BitVec.ofNat 11 (min g.toNat 1024)).toNat = min g.toNat 1024 := Nat.mod_eq_of_lt (by omega)
  rw [exec, execSetGain, if_pos hzone, acceptGain_eq, resendEvents_eq, hgain]
  rfl

/-- Settles O36: the dead zone decides between no effect and the resend of the active scene. -/
theorem setGainResendsOutsideDeadZone : Obligations.SetGainResendsOutsideDeadZone :=
  ⟨fun _ shown => decodeCommand_of_row 3 (by decide) shown rfl,
    fun _ _ => ⟨exec_setGain_of_inside, exec_setGain_of_outside⟩⟩

/-- Settles O37: 1019 and 1029 are the ends of the dead zone at unity, and a gain above it clips to unity. -/
theorem setGainAtUnityCorners : Obligations.SetGainAtUnityCorners := by
  refine fun g s unity => ⟨fun low high => exec_setGain_of_inside (by omega), fun above => ?_⟩
  have hclip : min g.toNat 1024 = 1024 := by omega
  have hkept : BitVec.ofNat 11 1024 = s.gain := BitVec.eq_of_toNat_eq unity.symm
  rw [exec_setGain_of_outside (by omega), hclip, hkept, litEvents_unity]
  rfl

/-! ### STATIC_APPEND (43_scene_engine.md R226) -/

theorem exec_staticAppend_of_refused {a : BitVec 8} (refused : 127 < a.toNat) (b : BitVec 8) (s : State) :
    exec (.staticAppend a b) s = .next (s.respond respNone) := by
  rw [exec, execStaticAppend, if_neg (mt (channelAccepted_iff a).1 refused.not_ge)]

theorem exec_staticAppend_of_accepted {a : BitVec 8} (accepted : a.toNat ≤ 127) (b : BitVec 8) (s : State) :
    exec (.staticAppend a b) s = .next ((s.bvPush (makeSlot a b)).respond respNone) := by
  rw [exec, execStaticAppend, if_pos ((channelAccepted_iff a).2 accepted)]

/-- Settles O38: the channel test decides whether there is a push, and a push is dropped at 128 entries only. -/
theorem staticAppendAppendsOrSkips : Obligations.StaticAppendAppendsOrSkips := by
  refine ⟨fun w shown => decodeCommand_of_row 4 (by decide) shown rfl, fun a b s h => ?_⟩
  rcases Nat.lt_or_ge 127 a.toNat with refused | accepted
  · rw [exec_staticAppend_of_refused refused, if_pos (.inl refused)]
    rfl
  · rw [exec_staticAppend_of_accepted accepted, bvPush_eq h]
    by_cases full : s.ssSize.toNat = 128
    · rw [if_pos full, if_pos (.inr full)]
      rfl
    · rw [if_neg full, if_neg (not_or.2 ⟨accepted.not_gt, full⟩)]
      rfl

/-! ### SWITCH_SCENE (43_scene_engine.md R227) -/

theorem exec_switchScene_of_same : exec (.switchScene s.activeDyn) s = .next (s.respond respNone) := by
  rw [exec, execSwitchScene, if_pos rfl]

theorem exec_switchScene_of_flip {d : Bool} (flips : d ≠ s.activeDyn) :
    exec (.switchScene d) s = .next { s with
      activeDyn := d
      out := s.out ++ (darkEvents s.activeScene ++ litEvents s.gain.toNat (s.setActive d).activeScene)
      resp := respNone } := by
  rw [exec, execSwitchScene, if_neg flips, flipScene_eq flips, blackoutEvents_eq, resendEvents_eq]
  rfl

/-- Settles O39: of the two scenes, the one that was active is blacked out and the other one resent. -/
theorem switchSceneBlacksOutThenResends : Obligations.SwitchSceneBlacksOutThenResends := by
  refine ⟨fun w shown => decodeCommand_of_row 5 (by decide) shown rfl, fun d s => ?_⟩
  split
  · next same =>
    subst same
    exact exec_switchScene_of_same
  · next flips =>
    have hactive : s.activeDyn = !d := Bool.eq_not.2 (Ne.symm flips)
    rw [exec_switchScene_of_flip flips, State.activeScene, hactive]
    cases d <;> rfl

/-! ### What the SINK holds after a switch (70_reset_and_hazards.md R321) -/

/-- If a history has an event of a channel, the SINK holds the intensity of one of them. -/
theorem lastOn_of_mem {ch : BitVec 8} {events : List Event} (h : ∃ e ∈ events, e.ch = ch) :
    ∃ e ∈ events, lastOn ch events = some e.intensity := by
  obtain ⟨e, he, hch⟩ := h
  have hne : events.filter (·.ch == ch) ≠ [] := List.ne_nil_of_mem (List.mem_filter.2 ⟨he, beq_iff_eq.2 hch⟩)
  refine ⟨_, List.mem_of_mem_filter (List.getLast_mem hne), ?_⟩
  rw [lastOn, List.getLast?_eq_some_getLast hne, Option.map_some]

theorem lastOn_darkEvents {ch : BitVec 8} {scene : List Slot} (h : ∃ x ∈ scene, x.set = true ∧ x.ch = ch) :
    lastOn ch (darkEvents scene) = some 0 := by
  obtain ⟨x, hx, hset, hch⟩ := h
  obtain ⟨e, he, hlast⟩ := lastOn_of_mem (ch := ch) (events := darkEvents scene)
    ⟨⟨x.ch, 0⟩, List.mem_map.2 ⟨x, List.mem_filter.2 ⟨hx, hset⟩, rfl⟩, hch⟩
  obtain ⟨y, -, rfl⟩ := List.mem_map.1 he
  exact hlast

theorem lastOn_litEvents_absent {ch : BitVec 8} {gain : Nat} {scene : List Slot}
    (h : ∀ x ∈ scene, x.set = true → x.ch ≠ ch) : lastOn ch (litEvents gain scene) = none := by
  refine lastOn_of_absent ch _ fun e he => ?_
  obtain ⟨x, hx, rfl⟩ := List.mem_map.1 he
  exact h x (List.mem_of_mem_filter hx) (List.mem_filter.1 hx).2

theorem litEvents_append (gain : Nat) (a b : List Slot) : litEvents gain (a ++ b) =
    litEvents gain a ++ litEvents gain b := by
  rw [litEvents, List.filter_append, List.map_append]
  rfl

theorem litEvents_singleton (gain : Nat) {x : Slot} (hset : x.set = true) :
    litEvents gain [x] = [⟨x.ch, BitVec.ofNat 8 (x.intensity.toNat * gain / 1024)⟩] := by
  rw [litEvents, List.filter_singleton, hset]
  rfl

theorem lastOn_singleton (e : Event) : lastOn e.ch [e] = some e.intensity := by
  rw [lastOn, List.filter_singleton, beq_self_eq_true]
  rfl

/-- A resend leaves on a channel the scaled intensity of the channel's last set slot in the walk. -/
theorem lastOn_litEvents {gain : Nat} {before after : List Slot} {x : Slot} (hset : x.set = true)
    (hlast : ∀ y ∈ after, y.set = true → y.ch ≠ x.ch) :
    lastOn x.ch (litEvents gain (before ++ x :: after)) =
      some (BitVec.ofNat 8 (x.intensity.toNat * gain / 1024)) := by
  have hx : lastOn x.ch (litEvents gain [x]) = some (BitVec.ofNat 8 (x.intensity.toNat * gain / 1024)) := by
    rw [litEvents_singleton gain hset]
    exact lastOn_singleton ⟨x.ch, _⟩
  rw [List.append_cons, litEvents_append, litEvents_append, lastOn_append, lastOn_append, lastOn_litEvents_absent hlast,
    Option.none_or, hx, Option.some_or]

/-- After a switch the SINK holds on a channel what the resend left there. -/
theorem lastOn_switch {d : Bool} {ch : BitVec 8} {v : Byte} (flips : d ≠ s.activeDyn)
    (h : exec (.switchScene d) s = .next t)
    (hlit : lastOn ch (litEvents s.gain.toNat (s.setActive d).activeScene) = some v) : lastOn ch t.out = some v := by
  rw [exec_switchScene_of_flip flips] at h
  cases h
  rw [lastOn_append, lastOn_append, hlit, Option.some_or, Option.some_or]

/-- Settles O40: the resend has no event of the channel, so its blackout event is the last one. -/
theorem switchLeavesOldChannelsDark : Obligations.SwitchLeavesOldChannelsDark := by
  intro d s t ch flips h old new
  rw [exec_switchScene_of_flip flips] at h
  cases h
  have hlit : lastOn ch (litEvents s.gain.toNat (s.setActive d).activeScene) = none := lastOn_litEvents_absent new
  rw [lastOn_append, lastOn_append, hlit, Option.none_or, lastOn_darkEvents old, Option.some_or]

/-- Settles O41: the resend walks the static store, in which the entry is the last one of its channel. -/
theorem lastStaticEntryWins : Obligations.LastStaticEntryWins := by
  intro s t before after x dynamic h scene hset hlast
  refine lastOn_switch (by rw [dynamic]; decide) h ?_
  rw [show (s.setActive false).activeScene = before ++ x :: after from scene]
  exact lastOn_litEvents hset hlast

/-! ### A SET_VALUE under the static scene (43_scene_engine.md R229) -/

/-- A set slot of DYN stands at the index of its channel (10_state.md R35). -/
theorem State.DynIndexed.toNat_ch (h : s.DynIndexed) {k : Nat} (hk : k < 128) (hset : s.dyn[k].set = true) :
    s.dyn[k].ch.toNat = k := by
  have hslot := h k hk
  rw [slotAt_of_lt hk] at hslot
  rcases hslot with unset | made
  · rw [unset] at hset
    cases hset
  · rw [made]
    exact Nat.mod_eq_of_lt (by omega)

/-- The walk of DYN up to an entry, the entry, and the walk after it. -/
theorem dynScene_split (s : State) {k : Nat} (hk : k < 128) :
    s.dynScene = s.dynScene.take k ++ s.dyn[k] :: s.dynScene.drop (k + 1) := by
  have hlen : k < s.dynScene.length := by rwa [dynScene_length]
  have hentry : s.dynScene[k] = s.dyn[k] := Vector.getElem_toList hlen
  rw [← hentry, List.getElem_cons_drop, List.take_append_drop]

/-- A resend of DYN leaves on a channel the scaled intensity of the channel's entry. -/
theorem lastOn_litEvents_dyn (h : s.DynIndexed) (gain : Nat) {x : Slot} (hset : x.set = true) (hch : x.ch.toNat < 128)
    (stored : s.dyn[x.ch.toNat] = x) :
    lastOn x.ch (litEvents gain s.dynScene) = some (BitVec.ofNat 8 (x.intensity.toNat * gain / 1024)) := by
  rw [dynScene_split s hch, stored]
  refine lastOn_litEvents hset fun y hy hyset hsame => ?_
  obtain ⟨j, hj, rfl⟩ := List.mem_drop_iff_getElem.1 hy
  rw [dynScene_length] at hj
  have hentry : s.dynScene[x.ch.toNat + 1 + j]'(by rw [dynScene_length]; omega) = s.dyn[x.ch.toNat + 1 + j] :=
    Vector.getElem_toList _
  rw [hentry] at hyset hsame
  have hindex := h.toNat_ch _ hyset
  rw [hsame] at hindex
  omega

/-- Settles O42: the write is hidden while the static scene is active, and the switch resends DYN, whose entry it is. -/
theorem hiddenWritesAppearAtSwitch : Obligations.HiddenWritesAppearAtSwitch := by
  intro c x s t u inv static hc hwrite hswitch
  have hch : c.toNat < 128 := by omega
  have hindexed : t.DynIndexed := ((exec_effect hwrite).inv inv).dyn_indexed
  rw [exec_setValue_of_accepted hch, if_neg (by simp [static]), List.append_nil] at hwrite
  cases hwrite
  refine ⟨rfl, lastOn_switch (by simp [static]) hswitch ?_⟩
  exact lastOn_litEvents_dyn hindexed _ (x := ⟨true, c, x⟩) rfl hch (Vector.getElem_set_self hch)

end Sys2Proof.Machine

/-! PROOFS of the family 44_query.md: each query's answer, and DYN's read after write. -/

namespace Sys2Proof.Machine

/-! ### The register queries (44_query.md R260 to R263) -/

/-- The answer of GET_SCENE: one bit, zero-extended. -/
theorem respVal_ofBool (d : Bool) : respVal (BitVec.ofBool d) = if d = true then 1#32 else 0#32 := by
  cases d <;> rfl

/-- Settles O49: each command's response is its register, zero-extended; STATUS already has the response's width. -/
theorem gettersAnswerTheirRegister : Obligations.GettersAnswerTheirRegister := by
  refine ⟨decodeCommand_of_encode rfl, decodeCommand_of_encode rfl, decodeCommand_of_encode rfl,
    decodeCommand_of_encode rfl, fun s => ⟨?_, ?_, ?_, ?_⟩⟩
  · rw [← respVal_eq]
    rfl
  · rw [← respVal_ofBool]
    rfl
  · rw [← respVal_eq]
    rfl
  · rw [exec, execGetStatus, respVal, BitVec.setWidth_eq]
    rfl

/-! ### GET_DYN (44_query.md R264) -/

theorem exec_getDyn (k : BitVec 7) (s : State) :
    exec (.getDyn k) s = .next (s.respond (slotWord (slotAt s.dyn k.toNat))) := rfl

/-- DYN after an accepted SET_VALUE (43_scene_engine.md R223). -/
theorem dyn_of_exec_setValue {c x : BitVec 8} {s t : State} (hc : c.toNat ≤ 127)
    (h : exec (.setValue true c x) s = .next t) : t.dyn = s.dyn.setIfInBounds c.toNat (makeSlot c x) := by
  rw [exec_setValue_of_accepted (Nat.lt_succ_of_le hc), ← setIfInBounds_of_lt] at h
  cases h
  rfl

/-- Settles O50: the response's fields are the entry's, and a SET_VALUE writes the entry of its channel only. -/
theorem getDynReadsBackSetValue : Obligations.GetDynReadsBackSetValue := by
  refine ⟨fun w shown => decodeCommand_of_row 10 (by decide) shown rfl, fun k s => ⟨?_, ?_⟩⟩
  · obtain ⟨hset, hch, hintensity⟩ := slotFields_wordS 0 _ _ _ rfl
    rw [← slotWord_eq_wordS] at hset hch hintensity
    exact ⟨_, exec_getDyn k s, rfl, slotWord_high _, hset, hch, hintensity⟩
  · intro c x t u hc hwrite hread
    rw [exec_getDyn, dyn_of_exec_setValue hc hwrite] at hread
    cases hread
    refine ⟨fun same => ?_, fun other => ?_⟩
    · rw [State.respond_resp, same, slotAt_write_same (Nat.lt_succ_of_le hc)]
      exact slotWord_makeSlot c x
    · rw [State.respond_resp, slotAt_write_other other.symm]
      exact exec_getDyn k s

end Sys2Proof.Machine

/-! PROOFS of the family 60_exceptions.md: the idle step, the reserved words' step, and STATUS as the record of the two
faults. -/

namespace Sys2Proof.Machine

variable {s t : State} {i : Instr}

/-- Settles O9: `fetch` settles the state itself at the timeline's end (60_exceptions.md R293). -/
theorem idleBlockHoldsItsState : Obligations.IdleBlockHoldsItsState := by
  intro s hend
  rw [step, fetch, hend]

/-- Settles O8: a reserved word decodes to nothing (O4), so the step settles by raising ILLEGAL. -/
theorem reservedWordSetsStatusBitZero : Obligations.ReservedWordSetsStatusBitZero := by
  intro s w rest htime hreserved
  have hdecode : decodeCommand w = none := (illegalWordsAreTheReservedOnes w).2 hreserved
  exact ⟨hdecode, step_of_undecoded htime hdecode⟩

/-! ### STATUS as the record of the two faults (60_exceptions.md R281 to R286) -/

/-- BV_READ alone writes STATUS, and not while its index is below SS_SIZE. -/
theorem exec_status_of_no_indexFault (hbelow : ∀ x, i = .bvRead x → x.toNat < s.ssSize.toNat)
    (h : exec i s = .next t) : t.status = s.status := by
  obtain ⟨-, -, -, -, -, -, same | ⟨x, rfl⟩, -⟩ := instructionsWriteOnlyTheirColumns i s t h
  · exact same
  · rw [exec_bvRead_below (hbelow x rfl)] at h
    cases h
    rfl

theorem exec_status_of_indexFault {x : BitVec 7} (beyond : s.ssSize.toNat ≤ x.toNat)
    (h : exec (.bvRead x) s = .next t) : t.status = s.status ||| 2 := by
  rw [exec_bvRead_beyond beyond] at h
  cases h
  rfl

/-- A BV_READ is presented by a command word only. -/
theorem decodeAction_bvRead {a : PortAction} {x : BitVec 7} (h : decodeAction a = some (.bvRead x)) :
    ∃ w, a = .command w ∧ decodeCommand w = some (.bvRead x) := by
  obtain rfl := decodeThenEncodeGivesAction a _ h
  exact ⟨_, rfl, h⟩

/-- Settles O16, by what the step can be: no command and no fault, an executed instruction, which faults exactly as a
BV_READ at or beyond SS_SIZE, or an illegal word. -/
theorem statusRecordsExactlyTwoFaults : Obligations.StatusRecordsExactlyTwoFaults := by
  intro s t hr h
  rcases step_cases h with ⟨htime, rfl⟩ | ⟨a, rest, i, htime, hdecode, hexec⟩ | ⟨w, rest, htime, hdecode, rfl⟩ |
    ⟨_, _, htime, -, rfl⟩ | ⟨_, _, htime, -⟩
  · exact .inl ⟨rfl, by simp [htime], by simp [htime]⟩
  · by_cases hfault : ∃ x, i = .bvRead x ∧ s.ssSize.toNat ≤ x.toNat
    · obtain ⟨x, rfl, beyond⟩ := hfault
      obtain ⟨w, rfl, hw⟩ := decodeAction_bvRead hdecode
      have hstatus := exec_status_of_indexFault (s := { s with timeline := rest }) beyond hexec
      exact .inr (.inr ⟨hstatus, w, rest, x, htime, hw, beyond⟩)
    · have hbelow : ∀ x, i = .bvRead x → x.toNat < s.ssSize.toNat :=
        fun x hx => Nat.lt_of_not_le fun beyond => hfault ⟨x, hx, beyond⟩
      have hcommand : ∀ w rest', s.timeline = .command w :: rest' → decodeCommand w = some i := by
        intro w rest' hw
        cases htime.symm.trans hw
        exact hdecode
      have hstatus := exec_status_of_no_indexFault (s := { s with timeline := rest }) hbelow hexec
      refine .inl ⟨hstatus, fun w rest' hw => ?_, fun w rest' x hw hx => ?_⟩
      · rw [hcommand w rest' hw]
        exact Option.some_ne_none i
      · exact hbelow x (Option.some.inj ((hcommand w rest' hw).symm.trans hx))
  · exact .inr (.inl ⟨rfl, w, rest, htime, hdecode⟩)
  · exact .inl ⟨rfl, by simp [htime], by simp [htime]⟩
  · rw [State.resetNext, htime] at hr
    cases hr

end Sys2Proof.Machine

/-! PROOFS of the family 70_reset_and_hazards.md: every row of R310's table after a reset. -/

namespace Sys2Proof.Machine

variable (s : State)

/-! ### The registers and stores after a reset (70_reset_and_hazards.md R310) -/

@[simp] theorem State.applyReset_activeDyn (p : Int) : (s.applyReset p).activeDyn = true := rfl
@[simp] theorem State.applyReset_gain (p : Int) : (s.applyReset p).gain = 1024#11 := rfl
@[simp] theorem State.applyReset_resp (p : Int) : (s.applyReset p).resp = 0 := rfl
@[simp] theorem State.applyReset_dyn (p : Int) : (s.applyReset p).dyn = Vector.replicate 128 .default := rfl
@[simp] theorem State.applyReset_ssData (p : Int) : (s.applyReset p).ssData = Vector.replicate 128 .default := rfl
@[simp] theorem State.applyReset_ssSize (p : Int) : (s.applyReset p).ssSize = 0 := rfl
@[simp] theorem State.applyReset_ssCap (p : Int) : (s.applyReset p).ssCap = 16#8 := rfl
@[simp] theorem State.applyReset_pstate (p : Int) : (s.applyReset p).pstate = .idle := rfl

theorem State.applyReset_dyn_getElem? (p : Int) {i : Nat} (hi : i < 128) :
    (s.applyReset p).dyn[i]? = some .default := by
  rw [State.applyReset_dyn, Vector.getElem?_replicate, if_pos hi]

theorem State.applyReset_ssData_getElem? (p : Int) {i : Nat} (hi : i < 128) :
    (s.applyReset p).ssData[i]? = some .default := by
  rw [State.applyReset_ssData, Vector.getElem?_replicate, if_pos hi]

theorem step_of_reset {s : State} {p : Int} {rest : List PortAction} (htime : s.timeline = .reset p :: rest) :
    step s = .next (({ s with timeline := rest } : State).applyReset p) :=
  step_of_undecoded htime rfl

/-- Settles O11: the step is `State.applyReset`, whose fields are R310's table; RX and the rest of the timeline stay. -/
theorem resetSetsEveryResetValue : Obligations.ResetSetsEveryResetValue := by
  intro s p rest htime
  exact ⟨_, step_of_reset htime, State.applyReset_filter _ p, State.applyReset_activeDyn _ p,
    congrArg BitVec.toNat (State.applyReset_gain _ p), State.applyReset_status _ p, State.applyReset_resp _ p,
    fun _ hi => ⟨State.applyReset_dyn_getElem? _ p hi, State.applyReset_ssData_getElem? _ p hi⟩,
    congrArg BitVec.toNat (State.applyReset_ssSize _ p), congrArg BitVec.toNat (State.applyReset_ssCap _ p),
    State.applyReset_pstate _ p, State.applyReset_out _ p, State.applyReset_rx _ p, State.applyReset_timeline _ p⟩

end Sys2Proof.Machine
